-- ==== Sys2Proof/Word.lean ====
section
/-! DEFINITION. The widths of WSB-GED: command words, segment patterns, glyph codes, magnitudes. -/

namespace Sys2Proof

/-- A command word, 32 bits (30_encoding.md R70). -/
abbrev Word := BitVec 32

/-- A segment pattern, 8 bits (00_scope.md R6 `PATTERN_BITS`). -/
abbrev Pattern := BitVec 8

/-- A glyph code, the 8-bit ROM address (00_scope.md R8 `GLYPH_BITS`). -/
abbrev Code := BitVec 8

/-- A RENDER magnitude, 24 bits (00_scope.md R8 `MAG_BITS`). -/
abbrev Magnitude := BitVec 24

end Sys2Proof
end

