-- ==== Sys2Proof/Config.lean ====
section
/-! DEFINITION. What is fixed when the block is built (segment names and positions, glyphs and their codes), and the
uninterpreted constants: the spec's OPEN parameters SEG_POS and HOST_COERCE, and the free values of registers that a
reset leaves unspecified. -/

namespace Sys2Proof

/-- The eight segment names (00_scope.md R13). -/
inductive Segment
  | a | b | c | d | e | f | g | dp
  deriving DecidableEq, Repr

/-- `SEG_POS` (00_scope.md R8, R9): the bit position of each segment. `distinct` makes it the bijection R9 asks for:
eight segments at eight different positions of 0..7. -/
structure SegPos where
  a : Fin 8
  b : Fin 8
  c : Fin 8
  d : Fin 8
  e : Fin 8
  f : Fin 8
  g : Fin 8
  dp : Fin 8
  distinct : [a, b, c, d, e, f, g, dp].Nodup
  deriving DecidableEq, Repr

/-- The position of one segment. -/
def SegPos.pos (p : SegPos) : Segment → Fin 8
  | .a => p.a
  | .b => p.b
  | .c => p.c
  | .d => p.d
  | .e => p.e
  | .f => p.f
  | .g => p.g
  | .dp => p.dp

/-- `REF_SEG_POS`, the spec's reference instance for numeric test vectors only (00_scope.md R8). -/
def SegPos.ref : SegPos := ⟨0, 1, 2, 3, 4, 5, 6, 7, by decide⟩

/-- `ALT_SEG_POS`, the second instance of 95_test_vectors.md, for test vectors only. -/
def SegPos.alt : SegPos := ⟨7, 6, 5, 4, 3, 2, 1, 0, by decide⟩

/-- The 13 glyphs (00_scope.md R14 "Glyph"): the digits 0..9, space, minus and lowercase `c`. -/
inductive Glyph
  | digit (d : Fin 10)
  | space
  | minus
  | c
  deriving DecidableEq, Repr

/-- The 13 glyphs, in the order of their codes. -/
def Glyph.all : List Glyph :=
  [.digit 0, .digit 1, .digit 2, .digit 3, .digit 4, .digit 5, .digit 6, .digit 7, .digit 8, .digit 9,
   .space, .minus, .c]

/-- What the outside system may ask the host to show (42_number_renderer.md R170, R172): a finite number, or a value
with no magnitude. `which` only tells two such values apart. Log 20. -/
inductive HostValue
  | number (q : Rat)
  | noMagnitude (which : Nat)
  deriving DecidableEq, Repr

namespace Config

/-- OPEN (00_scope.md R8, R9; decision D5): the wiring of the display cell, as a permutation of the eight positions.
No value of it can be proved. Log 3. -/
opaque segPerm : Equiv.Perm (Fin 8)

/-- The built block's `SEG_POS`, from `segPerm`. Log 3. -/
def segPos : SegPos where
  a := segPerm 0
  b := segPerm 1
  c := segPerm 2
  d := segPerm 3
  e := segPerm 4
  f := segPerm 5
  g := segPerm 6
  dp := segPerm 7
  distinct := by simp

/-- OPEN (decision D17): the MAG the host passes for a value with no magnitude, or that it passes none. Log 20. -/
opaque hostCoerce : Nat → Option Magnitude

/-- Free value (10_state.md R22, R33): SR after the n-th reset inside a run. Log 2. -/
opaque freeSr : Nat → Pattern

/-- Free value (10_state.md R22, R33): BITIDX after the n-th reset inside a run. Log 2. -/
opaque freeBitIdx : Nat → BitVec 3

/-- Free value (10_state.md R22, R33): DIGIDX after the n-th reset inside a run. Log 2. -/
opaque freeDigIdx : Nat → BitVec 2

/-- Free value (10_state.md R22, R33): MAG after the n-th reset inside a run. Log 2. -/
opaque freeMag : Nat → Magnitude

end Config

end Sys2Proof
end

