-- ==== Sys2Proof/Syntax.lean ====
section
/-! DEFINITION. The five commands of spec/opcode_table.json, one constructor a row. -/

namespace Sys2Proof

/-- A command of the block (30_encoding.md R71, R73). Operand widths are the fields' widths; the bits R71 calls ignored
are no operand and are not kept. -/
inductive Instr
  /-- No operation (41_display_driver.md R141); reserved opcodes decode to it as well (30_encoding.md R74). -/
  | nop
  /-- Shift the raw pattern `pat` (41_display_driver.md R142). -/
  | shiftp (pat : Pattern)
  /-- Encode `gcode` with the decimal-point request `dp` and shift it (42_number_renderer.md R160). -/
  | shiftg (gcode : Code) (dp : Bool)
  /-- Commit the storage stage to the display (41_display_driver.md R143). -/
  | latch
  /-- Show the low four decimal digits of `mag` (42_number_renderer.md R161). -/
  | render (mag : Magnitude)
  deriving DecidableEq, Repr

end Sys2Proof
end

