-- ==== Sys2Proof/Machine/AsmSyntax.lean ====
section
/-! DEFINITION. The assembler's source lines (30_encoding.md R78, R79) as data, before any range check. -/

namespace Sys2Proof.Machine

/-- A `<glyph>` operand, written one of three ways (30_encoding.md R78). -/
inductive GlyphOperand
  /-- A bare decimal digit. -/
  | digit (n : Nat)
  /-- A quoted character. -/
  | quoted (c : Char)
  /-- A raw code, written `#<n>`. -/
  | raw (n : Nat)
  deriving DecidableEq, Repr

/-- One operand of SHOW: a glyph, and whether it carries `:DP` (30_encoding.md R79). -/
structure ShowOperand where
  glyph : GlyphOperand
  dp : Bool
  deriving DecidableEq, Repr

/-- One source line: the five commands (30_encoding.md R78) and the two pseudo-instructions (R79). -/
inductive AsmLine
  | nop
  | shiftp (pat : Nat)
  | shiftg (glyph : GlyphOperand) (dp : Bool)
  | latch
  | render (mag : Nat)
  /-- `SHOW g0, g1, g2, g3`, leftmost first. -/
  | showFour (g0 g1 g2 g3 : ShowOperand)
  /-- `BLANK`. -/
  | blank
  deriving DecidableEq, Repr

end Sys2Proof.Machine
end

