-- ==== Sys2Proof/WellFormed.lean ====
section
/-! DEFINITION. Which commands and which source lines are well formed. A command's operands carry their widths in their
types, so `Instr.wf`, R71's ranges written out, holds of every command; a source line's operands are plain numbers and
characters, and the assembler refuses those out of range. -/

namespace Sys2Proof

/-- The operand ranges of 30_encoding.md R71. -/
def Instr.wf : Instr → Bool
  | .nop => true
  | .shiftp pat => decide (pat.toNat ≤ 255)
  | .shiftg gcode _ => decide (gcode.toNat ≤ 255)
  | .latch => true
  | .render mag => decide (mag.toNat ≤ 16777215)

namespace Machine

/-- A glyph operand the assembler takes (30_encoding.md R78): a digit 0..9, one of the three quoted literals (a quoted
digit is rejected, R80), or a raw code 0..255. -/
def GlyphOperand.wf : GlyphOperand → Bool
  | .digit n => decide (n ≤ 9)
  | .quoted c => [' ', '-', 'c'].contains c
  | .raw n => decide (n ≤ 255)

/-- A source line the assembler takes (30_encoding.md R78: it rejects "an operand out of range"). -/
def AsmLine.wf : AsmLine → Bool
  | .nop => true
  | .shiftp pat => decide (pat ≤ 255)
  | .shiftg glyph _ => glyph.wf
  | .latch => true
  | .render mag => decide (mag ≤ 16777215)
  | .showFour g0 g1 g2 g3 => g0.glyph.wf && g1.glyph.wf && g2.glyph.wf && g3.glyph.wf
  | .blank => true

end Machine

end Sys2Proof
end

