-- ==== Sys2Proof/Decode.lean ====
section
/-! DEFINITION. From a 32-bit command word to a command, total on every word (30_encoding.md R70 to R76), and back. -/

namespace Sys2Proof

/-- `OPC`, bits 31:24 (30_encoding.md R70). -/
def opcField (w : Word) : BitVec 8 := w.extractLsb' 24 8

/-- `PAT`, bits 7:0 (30_encoding.md R72). -/
def patField (w : Word) : Pattern := w.extractLsb' 0 8

/-- `GCODE`, bits 7:0 (30_encoding.md R72). -/
def gcodeField (w : Word) : Code := w.extractLsb' 0 8

/-- `DP`, bit 8 (30_encoding.md R72). -/
def dpField (w : Word) : Bool := w.getLsbD 8

/-- `MAG`, bits 23:0 (30_encoding.md R72). -/
def magField (w : Word) : Magnitude := w.extractLsb' 0 24

/-- The command a word stands for (30_encoding.md R73: "The decoder looks at `OPC` alone"). The reserved opcodes
0x05..0xFF execute as NOP (R74), and no word is refused (R75). Log 23. -/
def decode (w : Word) : Instr :=
  match (opcField w).toNat with
  | 0 => .nop
  | 1 => .shiftp (patField w)
  | 2 => .shiftg (gcodeField w) (dpField w)
  | 3 => .latch
  | 4 => .render (magField w)
  | _ => .nop

/-- The opcode of a command (30_encoding.md R71). -/
def opcode : Instr → BitVec 8
  | .nop => 0x00
  | .shiftp _ => 0x01
  | .shiftg _ _ => 0x02
  | .latch => 0x03
  | .render _ => 0x04

/-- `OPND`, bits 23:0 of a command, every ignored bit 0 (30_encoding.md R71, R78). -/
def operandBits : Instr → BitVec 24
  | .nop => 0
  | .shiftp pat => 0#16 ++ pat
  | .shiftg gcode dp => 0#15 ++ (BitVec.ofBool dp ++ gcode)
  | .latch => 0
  | .render mag => mag

/-- The word of a command: `CMD = (OPC << 24) | operand bits` (30_encoding.md R78), that is OPC over OPND (R70). -/
def encode (i : Instr) : Word := opcode i ++ operandBits i

/-- The command the decoder reads from a word given as a number of `nbits` bits, the bits above `nbits` being 0. A
command word has 32 bits and no byte order (30_encoding.md R70; 20_memory.md R55), so a wider request has no answer. -/
def decodeTableWord (nbits w : Nat) : Option Instr :=
  if nbits ≤ 32 then some (decode (BitVec.ofNat 32 (w % 2 ^ nbits))) else none

end Sys2Proof
end

