-- ==== Sys2Proof/Machine/State.lean ====
section
/-! DEFINITION. The state of the block, the attached chain, the monitor and the environment, as plain data; its value
after power-on reset; and the reasons a step can stop (there is none). -/

namespace Sys2Proof.Machine

/-- The three output lines (10_state.md R20). -/
inductive Line
  | clk | dat | lat
  deriving DecidableEq, Repr

/-- One event: `Drive(line, level)` (00_scope.md R12). -/
structure Event where
  line : Line
  level : Bool
  deriving DecidableEq, Repr

/-- `PHASE` (10_state.md R22) together with the sequencer's position (R23): outside IDLE, `next` is the index of the
next event of the command being executed. Log 11. -/
inductive Phase
  | idle
  /-- SHIFTP or SHIFTG: 24 events. -/
  | shifting (next : Fin 24)
  /-- LATCH: 2 events. -/
  | latching (next : Fin 2)
  /-- RENDER: 98 events, the four digits and then the latch pulse. -/
  | rendering (next : Fin 98)
  deriving DecidableEq, Repr

/-- The kinds of contract fault (60_exceptions.md R203: "There is no other kind."). -/
inductive FaultKind
  | latchCount
  deriving DecidableEq, Repr

/-- The code of a kind (60_exceptions.md R203). -/
def FaultKind.code : FaultKind → Nat
  | .latchCount => 1

/-- One record of FAULT: `(kind, info, n)` (60_exceptions.md R203). -/
structure FaultRecord where
  kind : FaultKind
  info : Nat
  n : Nat
  deriving DecidableEq, Repr

/-- One bit of the chain: 0, 1 or ⊥ (10_state.md R29). `none` is the spec's ⊥. Log 14. -/
abbrev ChainBit := Option Bool

/-- One stage array of the chain, `CHAIN_BITS` = 32 bits; index 0 is the stage nearest the data input
(00_scope.md R7; 10_state.md R29). -/
abbrev ChainBits := Vector ChainBit 32

/-- Every bit ⊥. -/
def ChainBits.unknown : ChainBits := Vector.replicate 32 none

/-- What the environment does next (10_state.md R21, 60_exceptions.md R213). Log 5. -/
inductive HostMove
  /-- Drive CMD with a word and CMD_VALID HIGH. `pause` says how many events of the command happen before the host's
  next move may land; `none`: the command runs to its last event first. Log 4. -/
  | offer (word : Word) (pause : Option Nat)
  /-- Drive RST. While it is HIGH every step is a block-only reset (70_reset_and_hazards.md R221). Log 8. -/
  | driveRst (level : Bool)
  /-- Drive ENC_CODE and ENC_DP (30_encoding.md R77). -/
  | encoderPort (code : Code) (dp : Bool)
  /-- Power is lost and returns: a power-on reset (60_exceptions.md R213). Log 21. -/
  | powerCycle
  deriving DecidableEq, Repr

/-- Everything the spec gives the machine (INVENTORY.md, "State"), and the model's own environment fields. -/
structure State where
  /-- CLK (10_state.md R20). -/
  clk : Bool
  /-- DAT (10_state.md R20). -/
  dat : Bool
  /-- LAT (10_state.md R20). -/
  lat : Bool
  /-- RST, input (10_state.md R21). -/
  rst : Bool
  /-- CMD, input (10_state.md R21). -/
  cmd : Word
  /-- CMD_VALID, input (10_state.md R21). -/
  cmdValid : Bool
  /-- ENC_CODE, input (10_state.md R21). -/
  encCode : Code
  /-- ENC_DP, input (10_state.md R21). -/
  encDp : Bool
  /-- PHASE and the position (10_state.md R22, R23). -/
  phase : Phase
  /-- SR, the pattern being shifted (10_state.md R22). -/
  sr : Pattern
  /-- BITIDX, the next bit of SR to emit (10_state.md R22). -/
  bitIdx : BitVec 3
  /-- DIGIDX, the RENDER digit index (10_state.md R22). -/
  digIdx : BitVec 2
  /-- MAG, the RENDER working magnitude (10_state.md R22). -/
  mag : Magnitude
  /-- PENDING (10_state.md R27). -/
  pending : Nat
  /-- FAULT (10_state.md R28). -/
  faults : List FaultRecord
  /-- Commands accepted since reset (60_exceptions.md R203, the "n" of a record). Log 10. -/
  accepted : Nat
  /-- S, the storage stage (10_state.md R29). -/
  storage : ChainBits
  /-- O, the output stage (10_state.md R29). -/
  output : ChainBits
  /-- SEG_POS (00_scope.md R8, R9; 10_state.md R25, R33). Log 3. -/
  segPos : SegPos
  /-- The model's own: the environment's next moves, in order. Log 5. -/
  host : List HostMove
  /-- The model's own: the pause of the command on offer. Log 4. -/
  pauseAfter : Option Nat
  /-- The model's own: the counter free values are applied to. Log 2, log 24. -/
  freeCount : Nat
  deriving DecidableEq, Repr

/-- The reasons the machine stops with a fault: none, so no constructor. The block raises no exception
(60_exceptions.md R200) and a contract fault is a record, not a stop (R203, R206). Log 16. -/
inductive Fault
  deriving DecidableEq, Repr

/-- The reasons a step is refused. -/
inductive Refusal
  /-- Raised by an arm of `exec` whose instruction has no meaning yet, and by nothing else. Safe. No arm of this model
  raises it. Log 16. -/
  | notModelled (mnemonic : String)
  deriving DecidableEq, Repr

/-- The machine right after power-on reset (10_state.md R33; 70_reset_and_hazards.md R220). The spec leaves SR, BITIDX,
DIGIDX and MAG unspecified: 0 here (log 1). It gives no level for the input ports: 0 here (log 7). The model's own
fields are empty (log 6, log 24). -/
def State.reset : State where
  clk := false
  dat := false
  lat := false
  rst := false
  cmd := 0
  cmdValid := false
  encCode := 0
  encDp := false
  phase := .idle
  sr := 0
  bitIdx := 0
  digIdx := 0
  mag := 0
  pending := 0
  faults := []
  accepted := 0
  storage := ChainBits.unknown
  output := ChainBits.unknown
  segPos := Config.segPos
  host := []
  pauseAfter := none
  freeCount := 0

end Sys2Proof.Machine
end

