-- ==== Sys2Proof/Machine/Ops.lean ====
section
/-! DEFINITION. The shared operations: views of the ports and of the display, the event primitives and the chain's
response to them (41_display_driver.md), the read-only memory of 20_memory.md, and the two resets. This hardware takes
no exception and returns from none (60_exceptions.md R206, R207). -/

namespace Sys2Proof.Machine

/-! Views. -/

/-- CMD_READY: HIGH exactly when the sequencer is IDLE (10_state.md R21). -/
def State.cmdReady (s : State) : Bool := s.phase == .idle

/-- The level of a line (10_state.md R20). -/
def State.level (s : State) : Line → Bool
  | .clk => s.clk
  | .dat => s.dat
  | .lat => s.lat

/-- The bits of cell k of a stage array, bit 0 first: stages 8k..8k+7 (10_state.md R29). -/
def cellBits (v : ChainBits) (k : Fin 4) : List ChainBit :=
  (List.finRange 8).map fun i => v[8 * k.val + i.val]

/-- Bits, least significant first, as a number; no value if any bit is ⊥. -/
def packBits : List ChainBit → Option Nat
  | [] => some 0
  | none :: _ => none
  | some b :: rest => (packBits rest).map fun n => b.toNat + 2 * n

/-- `cellPattern(k)`: the pattern cell k shows, "defined only when all eight bits are known" (10_state.md R29). -/
def State.cellPattern (s : State) (k : Fin 4) : Option Pattern :=
  (packBits (cellBits s.output k)).map (BitVec.ofNat 8)

/-- DisplayState: the four cell patterns, cell 0 first (10_state.md R30). Read left to right the display shows cell 0,
cell 1, cell 2, cell 3 (R31). -/
def State.displayState (s : State) : Option Pattern × Option Pattern × Option Pattern × Option Pattern :=
  (s.cellPattern 0, s.cellPattern 1, s.cellPattern 2, s.cellPattern 3)

/-- A stage array read as a word, stage 31 down to stage 0 (95_test_vectors.md, conventions). -/
def chainWord (v : ChainBits) : Option Word :=
  (packBits v.toList).map (BitVec.ofNat 32)

/-! The chain's response. -/

/-- One shift of the storage stage: every bit moves one stage down, the old last bit is lost, and `b` enters at stage 0
(41_display_driver.md R136). -/
def shiftIn (b : ChainBit) (v : ChainBits) : ChainBits :=
  Vector.ofFn fun i => if i.val = 0 then b else v[i.val - 1]

/-- The chain at a rising edge of CLK (41_display_driver.md R136). -/
def clkRise (s : State) : State :=
  { s with storage := shiftIn (some s.dat) s.storage }

/-- The chain at a rising edge of LAT (41_display_driver.md R137). -/
def latRise (s : State) : State :=
  { s with output := s.storage }

/-! Event primitives. -/

/-- Set the level of a line, and nothing else. -/
def State.setLevel (s : State) (l : Line) (v : Bool) : State :=
  match l with
  | .clk => { s with clk := v }
  | .dat => { s with dat := v }
  | .lat => { s with lat := v }

/-- `Drive(L, v)` (41_display_driver.md R130): set the level; on a rising edge of CLK or LAT, the chain responds. -/
def drive (l : Line) (v : Bool) (s : State) : State :=
  let old := s.level l
  let driven := s.setLevel l v
  if l = .clk ∧ old = false ∧ v = true then clkRise driven
  else if l = .lat ∧ old = false ∧ v = true then latRise driven
  else driven

/-- One event applied. -/
def applyEvent (e : Event) (s : State) : State := drive e.line e.level s

/-- `PULSE(L)` (41_display_driver.md R131). -/
def pulse (l : Line) (s : State) : State := drive l true (drive l false s)

/-- `SHIFT_BIT(b)` (41_display_driver.md R132). -/
def shiftBit (b : Bool) (s : State) : State := pulse .clk (drive .dat b s)

/-! The sequencer's registers around a SHIFT_DIGIT. -/

/-- Load SR with a pattern, with bit 7 the next bit to emit (10_state.md R22; 41_display_driver.md R142). -/
def loadPattern (p : Pattern) (s : State) : State := { s with sr := p, bitIdx := 7 }

/-- The bit of SR that BITIDX names (10_state.md R22). -/
def State.currentBit (s : State) : Bool := s.sr.getLsbD s.bitIdx.toNat

/-- `PENDING <- PENDING + 1`, the end of a SHIFT_DIGIT (41_display_driver.md R133). -/
def countShift (s : State) : State := { s with pending := s.pending + 1 }

/-- Emit bits n-1 down to 0 of SR (the loop of 41_display_driver.md R133). -/
def shiftBits : Nat → State → State
  | 0, s => s
  | n + 1, s =>
    let s := { s with bitIdx := BitVec.ofNat 3 n }
    shiftBits n (shiftBit s.currentBit s)

/-- `SHIFT_DIGIT(p)` with p in SR (41_display_driver.md R133). Log 12. -/
def shiftDigit (p : Pattern) (s : State) : State :=
  countShift (shiftBits 8 (loadPattern p s))

/-- Return to IDLE, which raises CMD_READY (10_state.md R23). -/
def toIdle (s : State) : State := { s with phase := .idle }

/-! The read-only memory. -/

/-- Memory as a list of cells; an address that is not listed reads as 0x00, the blank pattern
(40_segment_encoder.md R100 "otherwise"; 20_memory.md R60). There is no write (00_scope.md R12). Log 15. -/
abbrev Memory := List Host.Cell

/-- What an address that is not listed reads as. -/
def Memory.unlisted : BitVec 8 := 0

/-- Read one byte. -/
def Memory.read : Memory → Nat → BitVec 8
  | [], _ => Memory.unlisted
  | (at_, byte) :: rest, a => if at_ = a then byte else Memory.read rest a

/-- The canonical form: addresses strictly rising, no entry equal to what an unlisted address reads as. -/
def Memory.wf (m : Memory) : Bool :=
  decide (m.Pairwise fun x y => x.1 < y.1) && m.all fun x => x.2 != Memory.unlisted

/-! Resets. -/

/-- The registers that a reset leaves unspecified (10_state.md R22, R33): free values, fresh at each reset. Log 2. -/
def forgetRegisters (s : State) : State :=
  { s with
    sr := Config.freeSr s.freeCount
    bitIdx := Config.freeBitIdx s.freeCount
    digIdx := Config.freeDigIdx s.freeCount
    mag := Config.freeMag s.freeCount
    freeCount := s.freeCount + 1 }

/-- The three lines driven to 0 (70_reset_and_hazards.md R221, step 2). -/
def linesLow (s : State) : State := drive .lat false (drive .dat false (drive .clk false s))

/-- Block-only reset (70_reset_and_hazards.md R221; 10_state.md R33): the command in progress is abandoned, the lines
go to 0, IDLE, PENDING 0, FAULT empty, S ⊥, O unchanged. The input ports and SEG_POS stay. -/
def blockReset (s : State) : State :=
  { forgetRegisters (linesLow s) with
    phase := .idle
    pending := 0
    faults := []
    accepted := 0
    storage := ChainBits.unknown }

/-- Power lost and back: a power-on reset of block and chain (60_exceptions.md R213; 70_reset_and_hazards.md R220). The
levels are those the lines have after reset; S and O are ⊥ (R222). What the host holds on the input ports and SEG_POS
stay. Log 21. -/
def powerOnReset (s : State) : State :=
  { forgetRegisters s with
    clk := false
    dat := false
    lat := false
    phase := .idle
    pending := 0
    faults := []
    accepted := 0
    storage := ChainBits.unknown
    output := ChainBits.unknown }

end Sys2Proof.Machine
end

