-- ==== Sys2Proof/Machine/Operands.lean ====
section
/-! DEFINITION. Operand values: segment patterns, the glyph table, the glyph ROM and ENC (40_segment_encoder.md),
and the decimal digits of RENDER (42_number_renderer.md R161). Every field is unsigned and unscaled (30_encoding.md
R72). -/

namespace Sys2Proof.Machine

/-- `bitOf(s)`: the 8-bit value with only segment s's bit set (00_scope.md R13). -/
def bitOf (p : SegPos) (s : Segment) : Pattern := 1#8 <<< (p.pos s).val

/-- `pat(S)`: the OR of `bitOf` over a set of segments (00_scope.md R13). -/
def pat (p : SegPos) : List Segment → Pattern
  | [] => 0
  | s :: rest => bitOf p s ||| pat p rest

/-- `LIT(g)` for a digit (40_segment_encoder.md R112 to R121). -/
def litDigit : Fin 10 → List Segment
  | 0 => [.a, .b, .c, .d, .e, .f]
  | 1 => [.b, .c]
  | 2 => [.a, .b, .d, .e, .g]
  | 3 => [.a, .b, .c, .d, .g]
  | 4 => [.b, .c, .f, .g]
  | 5 => [.a, .c, .d, .f, .g]
  | 6 => [.a, .c, .d, .e, .f, .g]
  | 7 => [.a, .b, .c]
  | 8 => [.a, .b, .c, .d, .e, .f, .g]
  | 9 => [.a, .b, .c, .d, .f, .g]

/-- `LIT(g)`: the segments a glyph lights (40_segment_encoder.md R112 to R124). -/
def lit : Glyph → List Segment
  | .digit d => litDigit d
  | .space => []
  | .minus => [.g]
  | .c => [.d, .e, .g]

/-- `GLYPH_CODE` (00_scope.md R8; decision D4). -/
def glyphCode : Glyph → Code
  | .digit d => BitVec.ofNat 8 d.val
  | .space => 0x20
  | .minus => 0x2D
  | .c => 0x63

/-- The glyph ROM (40_segment_encoder.md R100), in the memory's canonical form: the glyphs in the order of their codes,
without the blank ones, which an unlisted address reads as anyway. Log 15. -/
def glyphRom (p : SegPos) : Memory :=
  (Glyph.all.map fun g => ((glyphCode g).toNat, pat p (lit g))).filter fun x => x.2 != Memory.unlisted

/-- `ROMRead(code)` (20_memory.md R50). -/
def romRead (p : SegPos) (code : Code) : Pattern := (glyphRom p).read code.toNat

/-- `ENC(code, dp)` (40_segment_encoder.md R110, R111). -/
def enc (p : SegPos) (code : Code) (dp : Bool) : Pattern :=
  if dp then romRead p code ||| bitOf p .dp else romRead p code

/-- ENC_PAT, driven at all times (30_encoding.md R77). -/
def State.encPat (s : State) : Pattern := enc s.segPos s.encCode s.encDp

/-- `MAG_REG mod 10` (42_number_renderer.md R161, R165). -/
def unitsDigit (m : Magnitude) : Fin 10 := ⟨m.toNat % 10, Nat.mod_lt _ (by decide)⟩

/-- `MAG_REG div 10` (42_number_renderer.md R161, R165). -/
def divTen (m : Magnitude) : Magnitude := BitVec.ofNat 24 (m.toNat / 10)

/-- The pattern of a digit, without the decimal point (42_number_renderer.md R161, R166). -/
def digitPattern (p : SegPos) (d : Fin 10) : Pattern := enc p (glyphCode (.digit d)) false

end Sys2Proof.Machine
end

