-- ==== Sys2Proof/Machine/Flags.lean ====
section
/-! DEFINITION. The block has no flags and no condition codes (10_state.md R24): no command writes one. What the model
records of a command is the monitor's (60_exceptions.md R203, R204). -/

namespace Sys2Proof.Machine

/-- `Fault(kind, info)`: append `(kind, info, n)`, n the number of commands accepted since reset, the faulting one
included (60_exceptions.md R203). It changes nothing else and the command goes on. Log 10. -/
def recordFault (kind : FaultKind) (info : Nat) (s : State) : State :=
  { s with faults := s.faults ++ [⟨kind, info, s.accepted⟩] }

/-- The contract check at the head of a LATCH_PULSE (41_display_driver.md R134; 60_exceptions.md R204). -/
def checkLatch (s : State) : State :=
  if s.pending = 4 then s else recordFault .latchCount s.pending s

/-- `PENDING <- 0`, the end of a LATCH_PULSE (41_display_driver.md R134). -/
def clearPending (s : State) : State := { s with pending := 0 }

/-- `LATCH_PULSE` (41_display_driver.md R134). -/
def latchPulse (s : State) : State := clearPending (pulse .lat (checkLatch s))

end Sys2Proof.Machine
end

