-- ==== Sys2Proof/Machine/Driver.lean ====
section
/-! DEFINITION. The driver's commands NOP, SHIFTP and LATCH (41_display_driver.md R141 to R143). -/

namespace Sys2Proof.Machine

/-- `NOP` (41_display_driver.md R141): no event, every piece of state stays. -/
def execNop (s : State) : Host.Outcome State Fault Refusal := .next s

/-- `SHIFTP pat` (41_display_driver.md R142): SR <- PAT; SHIFT_DIGIT(SR). -/
def execShiftp (pattern : Pattern) (s : State) : Host.Outcome State Fault Refusal :=
  .next (toIdle (shiftDigit pattern s))

/-- `LATCH` (41_display_driver.md R143): LATCH_PULSE. -/
def execLatch (s : State) : Host.Outcome State Fault Refusal :=
  .next (toIdle (latchPulse s))

end Sys2Proof.Machine
end

