-- ==== Sys2Proof/Machine/Renderer.lean ====
section
/-! DEFINITION. The commands that join encoder and driver, SHIFTG and RENDER (42_number_renderer.md R160 to R168). -/

namespace Sys2Proof.Machine

/-- `SHIFTG glyph[, DP]` (42_number_renderer.md R160): SR <- ENC(GCODE, DP); SHIFT_DIGIT(SR). -/
def execShiftg (gcode : Code) (dp : Bool) (s : State) : Host.Outcome State Fault Refusal :=
  .next (toIdle (shiftDigit (enc s.segPos gcode dp) s))

/-- The pattern of MAG_REG's units digit (42_number_renderer.md R161). -/
def State.unitsPattern (s : State) : Pattern := digitPattern s.segPos (unitsDigit s.mag)

/-- `MAG_REG <- MAG_REG div 10` (42_number_renderer.md R161). -/
def divideMag (s : State) : State := { s with mag := divTen s.mag }

/-- One turn of RENDER's loop, DIGIDX = k (42_number_renderer.md R161). -/
def renderDigit (k : Nat) (s : State) : State :=
  let s := { s with digIdx := BitVec.ofNat 2 k }
  divideMag (shiftDigit s.unitsPattern s)

/-- `RENDER mag` (42_number_renderer.md R161): four digits, units first, and then LATCH_PULSE. Log 12. -/
def execRender (magnitude : Magnitude) (s : State) : Host.Outcome State Fault Refusal :=
  .next (toIdle (latchPulse
    (renderDigit 3 (renderDigit 2 (renderDigit 1 (renderDigit 0 { s with mag := magnitude }))))))

end Sys2Proof.Machine
end

