-- ==== Sys2Proof/Machine/Dispatch.lean ====
section
/-! DEFINITION. One arm per command. -/

namespace Sys2Proof.Machine

def exec (i : Instr) (s : State) : Host.Outcome State Fault Refusal :=
  match i with
  | .nop => Sys2Proof.Machine.execNop s
  | .shiftp pattern => Sys2Proof.Machine.execShiftp pattern s
  | .shiftg gcode dp => Sys2Proof.Machine.execShiftg gcode dp s
  | .latch => Sys2Proof.Machine.execLatch s
  | .render magnitude => Sys2Proof.Machine.execRender magnitude s

end Sys2Proof.Machine
end

