-- ==== Sys2Proof/Machine/Sequencer.lean ====
section
/-! DEFINITION. The sequencer event by event (10_state.md R22, R23; 41_display_driver.md R145): what a command does at
its acceptance, and what one event does. A command that nothing interrupts is `exec`; these are for the boundaries
inside a command, where RST may land (70_reset_and_hazards.md R221). Log 4, log 13. -/

namespace Sys2Proof.Machine

/-- A command at its acceptance: its operands in the sequencer's registers, the position at event 0 (10_state.md R23). A
NOP has no event, so the block is ready again at once (41_display_driver.md R141). -/
def beginCommand (i : Instr) (s : State) : State :=
  match i with
  | .nop => s
  | .shiftp pattern => { loadPattern pattern s with phase := .shifting 0 }
  | .shiftg gcode dp => { loadPattern (enc s.segPos gcode dp) s with phase := .shifting 0 }
  | .latch => { s with phase := .latching 0 }
  | .render magnitude => { s with mag := magnitude, phase := .rendering 0 }

/-- Event j of a SHIFT_DIGIT: for each bit, DAT, CLK low, CLK high (41_display_driver.md R132, R133). -/
def shiftEvent (j : Nat) (s : State) : Event :=
  match j % 3 with
  | 0 => ⟨.dat, s.currentBit⟩
  | 1 => ⟨.clk, false⟩
  | _ => ⟨.clk, true⟩

/-- Event j of a LATCH_PULSE (41_display_driver.md R131, R134). -/
def latchEvent (j : Nat) : Event := ⟨.lat, decide (j ≠ 0)⟩

/-- The next event of the command in progress (10_state.md R23). -/
def nextEvent (s : State) : Option Event :=
  match s.phase with
  | .idle => none
  | .shifting k => some (shiftEvent k.val s)
  | .latching k => some (latchEvent k.val)
  | .rendering k => some (if k.val < 96 then shiftEvent (k.val % 24) s else latchEvent (k.val - 96))

/-- What the rules do before the event at the position: RENDER loads the next digit, a latch makes its contract
check. -/
def beforeEvent (s : State) : State :=
  match s.phase with
  | .idle => s
  | .shifting _ => s
  | .latching k => if k.val = 0 then checkLatch s else s
  | .rendering k =>
    if k.val = 96 then checkLatch s
    else if k.val < 96 ∧ k.val % 24 = 0 then
      let s := { s with digIdx := BitVec.ofNat 2 (k.val / 24) }
      loadPattern s.unitsPattern s
    else s

/-- The register updates after event j of a SHIFT_DIGIT: the next bit after a CLK rise, PENDING after the last. -/
def afterShiftEvent (j : Nat) (s : State) : State :=
  if j = 23 then countShift s
  else if j % 3 = 2 then { s with bitIdx := s.bitIdx - 1 }
  else s

/-- What the rules do after the event at the position, and the position's advance; after the last event, IDLE
(10_state.md R23). -/
def afterEvent (s : State) : State :=
  match s.phase with
  | .idle => s
  | .shifting k =>
    let s := afterShiftEvent k.val s
    if h : k.val + 1 < 24 then { s with phase := .shifting ⟨k.val + 1, h⟩ } else toIdle s
  | .latching k =>
    if h : k.val + 1 < 2 then { s with phase := .latching ⟨k.val + 1, h⟩ } else toIdle (clearPending s)
  | .rendering k =>
    let s := if k.val < 96 then afterShiftEvent (k.val % 24) s else s
    let s := if k.val < 96 ∧ k.val % 24 = 23 then divideMag s else s
    if h : k.val + 1 < 98 then { s with phase := .rendering ⟨k.val + 1, h⟩ } else toIdle (clearPending s)

/-- One event of the command in progress; nothing while IDLE. -/
def tick (s : State) : State :=
  let s := beforeEvent s
  match nextEvent s with
  | none => s
  | some e => afterEvent (applyEvent e s)

/-- n events, or as many as the command has left. -/
def runEvents : Nat → State → State
  | 0, s => s
  | n + 1, s => runEvents n (tick s)

/-- The events that n ticks drive, in order. -/
def eventTrace : Nat → State → List Event
  | 0, _ => []
  | n + 1, s => (nextEvent (beforeEvent s)).toList ++ eventTrace n (tick s)

/-! The event list of a command, written from its pseudocode (00_scope.md R12). -/

/-- The events of `PULSE(L)` (41_display_driver.md R131). -/
def pulseEvents (l : Line) : List Event := [⟨l, false⟩, ⟨l, true⟩]

/-- The events of `SHIFT_BIT(b)` (41_display_driver.md R132). -/
def shiftBitEvents (b : Bool) : List Event := ⟨.dat, b⟩ :: pulseEvents .clk

/-- The events of `SHIFT_DIGIT(p)` (41_display_driver.md R133). -/
def shiftDigitEvents (p : Pattern) : List Event :=
  [7, 6, 5, 4, 3, 2, 1, 0].flatMap fun i => shiftBitEvents (p.getLsbD i)

/-- RENDER's digit k of a magnitude, counted from the units (42_number_renderer.md R161, R162). -/
def renderedDigit (m : Magnitude) (k : Nat) : Fin 10 := ⟨m.toNat / 10 ^ k % 10, Nat.mod_lt _ (by decide)⟩

/-- The ordered list of events a command emits (00_scope.md R12). -/
def commandEvents (p : SegPos) : Instr → List Event
  | .nop => []
  | .shiftp pattern => shiftDigitEvents pattern
  | .shiftg gcode dp => shiftDigitEvents (enc p gcode dp)
  | .latch => pulseEvents .lat
  | .render m =>
    (List.range 4).flatMap (fun k => shiftDigitEvents (digitPattern p (renderedDigit m k))) ++ pulseEvents .lat

/-- The number of events of a command (70_reset_and_hazards.md R235). -/
def eventCount : Instr → Nat
  | .nop => 0
  | .shiftp _ => 24
  | .shiftg _ _ => 24
  | .latch => 2
  | .render _ => 98

/-- `Rise(L)`, counted over a list of events that starts with L at a given level (00_scope.md R12). -/
def countRises (l : Line) : Bool → List Event → Nat
  | _, [] => 0
  | level, e :: rest =>
    if e.line = l then (if !level && e.level then 1 else 0) + countRises l e.level rest
    else countRises l level rest

end Sys2Proof.Machine
end

