-- ==== Sys2Proof/Machine/HostSide.lean ====
section
/-! DEFINITION. The environment: how its moves land on the ports, and the duties of the host the display depends on
(42_number_renderer.md R170 to R174). -/

namespace Sys2Proof.Machine

/-- A move can land: an offer waits while another word is still held on CMD (70_reset_and_hazards.md R227). Log 5. -/
def HostMove.canLand (m : HostMove) (s : State) : Bool :=
  match m with
  | .offer _ _ => !s.cmdValid
  | .driveRst _ => true
  | .encoderPort _ _ => true
  | .powerCycle => true

/-- A move lands (10_state.md R21; 60_exceptions.md R213). -/
def HostMove.land (m : HostMove) (s : State) : State :=
  match m with
  | .offer word pause => { s with cmd := word, cmdValid := true, pauseAfter := pause }
  | .driveRst level => { s with rst := level }
  | .encoderPort code dp => { s with encCode := code, encDp := dp }
  | .powerCycle => powerOnReset s

/-- The magnitude of a value: `floor(abs(value))` (42_number_renderer.md R170). -/
def hostMagnitude (q : Rat) : Nat := ⌊|q|⌋.toNat

/-- The MAG a host passes for a magnitude: the magnitude itself below 2^24, its low four digits from there on
(42_number_renderer.md R170, R171). -/
def hostMag (m : Nat) : Magnitude :=
  if m < 2 ^ 24 then BitVec.ofNat 24 m else BitVec.ofNat 24 (m % 10000)

/-- The command a host issues for a value (42_number_renderer.md R170 to R173). Log 20. -/
def hostRender : HostValue → Option Instr
  | .number q => some (.render (hostMag (hostMagnitude q)))
  | .noMagnitude which => (Config.hostCoerce which).map .render

end Sys2Proof.Machine
end

