-- ==== Sys2Proof/Machine/Accept.lean ====
section
/-! DEFINITION. What a step can do: with RST HIGH, reset; else accept the command on offer, or let the environment's
next move land or the next event happen. -/

namespace Sys2Proof.Machine

/-- A command is accepted when CMD_VALID and CMD_READY are both HIGH (10_state.md R21). -/
def State.accepts (s : State) : Bool := s.cmdValid && s.cmdReady

/-- What acceptance does around the command: it is counted (60_exceptions.md R203; log 10), and the host takes its offer
back (log 9). -/
def State.accept (s : State) : State :=
  { s with accepted := s.accepted + 1, cmdValid := false, pauseAfter := none }

/-- The command on offer. -/
def State.offered (s : State) : Instr := decode s.cmd

/-- The command on offer is accepted. It runs to its last event (00_scope.md R16), or for as many events as its pause
says (log 4). -/
def acceptCommand (s : State) : Host.Outcome State Fault Refusal :=
  match s.pauseAfter with
  | none => exec s.offered s.accept
  | some n => .next (runEvents n (beginCommand s.offered s.accept))

/-- The host's next move lands, if it can (log 5). Else the command in progress makes its next event; while IDLE the
block waits (70_reset_and_hazards.md R220). -/
def proceed (s : State) : State :=
  match s.host with
  | [] => tick s
  | m :: rest => if m.canLand s then m.land { s with host := rest } else tick s

/-- A boundary at which RST is HIGH: the block resets (70_reset_and_hazards.md R221), and the host's next move lands, if
it can, RST going LOW among them. Log 8. -/
def underReset (s : State) : State :=
  let s := blockReset s
  match s.host with
  | [] => s
  | m :: rest => if m.canLand s then m.land { s with host := rest } else s

end Sys2Proof.Machine
end

