-- ==== Sys2Proof/Machine/Step.lean ====
section
/-! DEFINITION. One step of the block and its environment, and where the host puts the word the next step runs. -/

namespace Sys2Proof.Machine

/-- One step. RST takes precedence over everything (60_exceptions.md R202). Else an offered command is accepted if the
block is ready (10_state.md R21). Else the environment or the command in progress goes on. -/
def step (s : State) : Host.Outcome State Fault Refusal :=
  if s.rst then .next (underReset s)
  else if s.accepts then acceptCommand s
  else .next (proceed s)

/-- The state in which the very next step accepts and runs the given word: the word on CMD with CMD_VALID HIGH, RST low,
the sequencer IDLE, no pause. Log 6. -/
def State.withFetchWord (s : State) (nbits w : Nat) : State :=
  { s with
    rst := false
    cmd := BitVec.ofNat 32 (w % 2 ^ nbits)
    cmdValid := true
    phase := .idle
    pauseAfter := none }

end Sys2Proof.Machine
end

