-- ==== Sys2Proof/Machine/Assembler.lean ====
section
/-! DEFINITION. The assembler (30_encoding.md R78 to R81): source text to source lines, and source lines to command
words. Log 22. -/

namespace Sys2Proof.Machine

/-! From source lines to words. -/

/-- The code of a glyph operand (30_encoding.md R78). For the three quoted literals the code is the glyph's. -/
def GlyphOperand.code : GlyphOperand → Code
  | .digit n => BitVec.ofNat 8 n
  | .quoted c => if c = ' ' then 0x20 else if c = '-' then 0x2D else 0x63
  | .raw n => BitVec.ofNat 8 n

/-- The SHIFTG of one SHOW operand (30_encoding.md R79). -/
def ShowOperand.instr (g : ShowOperand) : Instr := .shiftg g.glyph.code g.dp

/-- The commands of a line: SHOW shifts its rightmost operand first (30_encoding.md R79). -/
def AsmLine.expand : AsmLine → List Instr
  | .nop => [.nop]
  | .shiftp n => [.shiftp (BitVec.ofNat 8 n)]
  | .shiftg glyph dp => [.shiftg glyph.code dp]
  | .latch => [.latch]
  | .render n => [.render (BitVec.ofNat 24 n)]
  | .showFour g0 g1 g2 g3 => [g3.instr, g2.instr, g1.instr, g0.instr, .latch]
  | .blank => [.shiftp 0, .shiftp 0, .shiftp 0, .shiftp 0, .latch]

/-- The words of a line; `none` where the assembler rejects it (30_encoding.md R78). -/
def AsmLine.assemble (l : AsmLine) : Option (List Word) :=
  if l.wf then some (l.expand.map encode) else none

/-! From text to source lines. -/

/-- The text of a line before its comment, which starts with `;` (30_encoding.md R78). -/
def dropComment (text : List Char) : List Char := text.takeWhile fun c => c != ';'

/-- A blank between words. -/
def isBlank (c : Char) : Bool := c == ' ' || c == '\t'

/-- Text without the blanks around it. -/
def trim (text : List Char) : List Char :=
  ((text.dropWhile isBlank).reverse.dropWhile isBlank).reverse

/-- The pieces of a text between commas (30_encoding.md R78 "Operands are separated by commas"), untrimmed. -/
def splitCommas : List Char → List (List Char)
  | [] => [[]]
  | c :: rest =>
    if c = ',' then [] :: splitCommas rest
    else
      match splitCommas rest with
      | [] => [[c]]
      | piece :: pieces => (c :: piece) :: pieces

/-- The value of a digit character in a base up to 16. -/
def digitValue (base : Nat) (c : Char) : Option Nat :=
  let v :=
    if '0' ≤ c ∧ c ≤ '9' then c.toNat - 48
    else if 'a' ≤ c ∧ c ≤ 'f' then c.toNat - 87
    else if 'A' ≤ c ∧ c ≤ 'F' then c.toNat - 55
    else base
  if v < base then some v else none

/-- The number a run of digits stands for, after the digits already read. -/
def digitsValue (base : Nat) : Nat → List Char → Option Nat
  | read, [] => some read
  | read, c :: rest =>
    match digitValue base c with
    | some v => digitsValue base (base * read + v) rest
    | none => none

/-- A number, "decimal or 0x hex" (30_encoding.md R78). DESIGN CHOICE: leading zeros are taken, hex digits of either
case, and the `#<n>` of a raw code is read so too. Log 22. -/
def parseNumber : List Char → Option Nat
  | [] => none
  | '0' :: 'x' :: [] => none
  | '0' :: 'x' :: c :: rest => digitsValue 16 0 (c :: rest)
  | c :: rest => digitsValue 10 0 (c :: rest)

/-- The quotation mark around a literal. -/
def quoteMark : Char := Char.ofNat 39

/-- A `<glyph>` operand: a bare digit, a quoted character or `#<n>` (30_encoding.md R78). DESIGN CHOICE: no blank between
`#` and its number, which R78 leaves open. Log 22. -/
def parseGlyph (text : List Char) : Option GlyphOperand :=
  match text with
  | [c] => (digitValue 10 c).map .digit
  | '#' :: rest => (parseNumber rest).map .raw
  | [q, c, r] => if q = quoteMark ∧ r = quoteMark then some (.quoted c) else none
  | _ => none

/-- A SHOW operand: a glyph, or a glyph and `:DP` (30_encoding.md R79). DESIGN CHOICE: R79 does not say whether blanks may
stand around the colon; here they may before it (`4 :DP`) and not between it and DP (`4: DP` is refused). Log 22. -/
def parseShowOperand (text : List Char) : Option ShowOperand :=
  match text.reverse with
  | 'P' :: 'D' :: ':' :: rest => (parseGlyph (trim rest.reverse)).map fun g => ⟨g, true⟩
  | _ => (parseGlyph text).map fun g => ⟨g, false⟩

/-- The operands of a line, each without the blanks around it; none where nothing follows the mnemonic. -/
def operandTexts (text : List Char) : List (List Char) :=
  if trim text = [] then [] else (splitCommas text).map trim

/-- A line's mnemonic and operands as a source line; `none` where the form is none of 30_encoding.md R78 and R79. -/
def parseForm (mnemonic : List Char) (operands : List (List Char)) : Option AsmLine :=
  if mnemonic = ['N', 'O', 'P'] then
    match operands with
    | [] => some .nop
    | _ => none
  else if mnemonic = ['S', 'H', 'I', 'F', 'T', 'P'] then
    match operands with
    | [x] => (parseNumber x).map .shiftp
    | _ => none
  else if mnemonic = ['S', 'H', 'I', 'F', 'T', 'G'] then
    match operands with
    | [x] => (parseGlyph x).map fun g => .shiftg g false
    | [x, y] => if y = ['D', 'P'] then (parseGlyph x).map fun g => .shiftg g true else none
    | _ => none
  else if mnemonic = ['L', 'A', 'T', 'C', 'H'] then
    match operands with
    | [] => some .latch
    | _ => none
  else if mnemonic = ['R', 'E', 'N', 'D', 'E', 'R'] then
    match operands with
    | [x] => (parseNumber x).map .render
    | _ => none
  else if mnemonic = ['S', 'H', 'O', 'W'] then
    match operands.map parseShowOperand with
    | [some g0, some g1, some g2, some g3] => some (.showFour g0 g1 g2 g3)
    | _ => none
  else if mnemonic = ['B', 'L', 'A', 'N', 'K'] then
    match operands with
    | [] => some .blank
    | _ => none
  else none

/-- The words of one line of source text: none for a line that holds only blanks or a comment, and `none` where the
assembler rejects the line (30_encoding.md R78). -/
def assembleText (text : List Char) : Option (List Word) :=
  let line := trim (dropComment text)
  if line = [] then some []
  else
    let mnemonic := line.takeWhile fun c => !isBlank c
    let rest := line.dropWhile fun c => !isBlank c
    (parseForm mnemonic (operandTexts rest)).bind AsmLine.assemble

end Sys2Proof.Machine
end

