-- ==== Sys2Proof/Safety.lean ====
section
/-! DEFINITION. What a safe run is: the monitor's FAULT is empty (10_state.md R28) and the display has a value
(10_state.md R29); and the host's latch contract on a list of commands (42_number_renderer.md R174, duty 2). -/

namespace Sys2Proof

namespace Machine

/-- "FAULT is empty", the premise of a claim about the block (10_state.md R28). -/
def State.clean (s : State) : Bool := s.faults == []

/-- Every cell shows a pattern: no bit of O is ⊥ (10_state.md R29). -/
def State.displayKnown (s : State) : Bool := s.output.toList.all Option.isSome

end Machine

namespace Safety

open Sys2Proof.Machine

/-- A stage array after the pattern p has been shifted into it: p in stages 0..7, every older bit eight stages further
down, the last eight lost (41_display_driver.md R133, R136). -/
def pushed (p : Pattern) (v : ChainBits) : ChainBits :=
  Vector.ofFn fun i => if i.val < 8 then some (p.getLsbD i.val) else v[i.val - 8]

/-- A stage array that holds one pattern a cell, cell 0 first (10_state.md R29, R30). -/
def image (c0 c1 c2 c3 : Pattern) : ChainBits :=
  Vector.ofFn fun i =>
    some ((if i.val < 8 then c0 else if i.val < 16 then c1 else if i.val < 24 then c2 else c3).getLsbD (i.val % 8))

/-- PENDING after a command, if the command keeps the latch contract from PENDING = k (42_number_renderer.md R174, duty
2; 70_reset_and_hazards.md R224); `none` where it latches at another count than four. -/
def contractStep (k : Nat) : Instr → Option Nat
  | .nop => some k
  | .shiftp _ => some (k + 1)
  | .shiftg _ _ => some (k + 1)
  | .latch => if k = 4 then some 0 else none
  | .render _ => if k = 0 then some 0 else none

/-- PENDING after a list of commands that keeps the contract from PENDING = k; `none` for a breach. -/
def contractRun : Nat → List Instr → Option Nat
  | k, [] => some k
  | k, i :: rest =>
    match contractStep k i with
    | some k' => contractRun k' rest
    | none => none

/-- The program as the host's moves: each command offered in turn and left to run to its last event. -/
def offers (program : List Instr) : List HostMove := program.map fun i => .offer (encode i) none

/-- A quiet block: IDLE, nothing on offer, RST low, no pause. -/
def quiet (s : State) : Bool := s.phase == .idle && !s.cmdValid && !s.rst && s.pauseAfter == none

/-- Four shifting commands and a LATCH, or one RENDER: one update (00_scope.md R15; 42_number_renderer.md R174). -/
def isUpdate : List Instr → Bool
  | [.render _] => true
  | [a, b, c, d, .latch] => [a, b, c, d].all fun i => match i with
    | .shiftp _ => true
    | .shiftg _ _ => true
    | .nop => false
    | .latch => false
    | .render _ => false
  | _ => false

/-- The state after a list of commands, each run by `exec` in turn as acceptance hands it over. -/
def runProgram : List Instr → State → Host.Outcome State Fault Refusal
  | [], s => .next s
  | i :: rest, s =>
    match exec i s.accept with
    | .next t => runProgram rest t
    | .fault r => .fault r
    | .refused r => .refused r

/-- Event j of a SHIFT_DIGIT is next: BITIDX names its bit, DAT has held that bit since the SHIFT_BIT's first event, and
CLK is LOW when its rising edge is next (10_state.md R22; 41_display_driver.md R132, R135). -/
def shiftAt (j : Nat) (s : State) : Prop :=
  s.bitIdx.toNat = 7 - j / 3 ∧ (j % 3 ≠ 0 → s.dat = s.currentBit) ∧ (j % 3 = 2 → s.clk = false)

/-- The sequencer's registers agree with its position (10_state.md R22, R23; 42_number_renderer.md R161). -/
def sequencerConsistent (s : State) : Prop :=
  match s.phase with
  | .idle => True
  | .shifting k => shiftAt k.val s
  | .latching k => k.val = 1 → s.lat = false
  | .rendering k =>
    (k.val < 96 → k.val % 24 ≠ 0 →
      shiftAt (k.val % 24) s ∧ s.digIdx.toNat = k.val / 24 ∧ s.sr = s.unitsPattern) ∧
    (k.val = 97 → s.lat = false)

/-- The bits of an unfinished SHIFT_DIGIT that have entered the chain. -/
def bitsInProgress : Phase → Nat
  | .idle => 0
  | .shifting k => k.val / 3
  | .latching _ => 0
  | .rendering k => if k.val < 96 then k.val % 24 / 3 else 0

/-- The storage stages that the SHIFT_DIGITs counted in PENDING, and the bits of one in progress, have filled are known
(70_reset_and_hazards.md R229). -/
def storageKnown (s : State) : Prop :=
  ∀ i : Fin 32, i.val < 8 * s.pending + bitsInProgress s.phase → s.storage[i].isSome

/-- Two states that differ at most in the chain's two stages. -/
def sameButChain (s t : State) : Prop :=
  t = { s with storage := t.storage, output := t.output }

end Safety

end Sys2Proof
end

