-- ==== Sys2Proof/Certificates/Slice0/Obligations.lean ====
section
/-! DEFINITION. The statements for the provers. A statement about `exec` or `step` holds for every SEG_POS, since
SEG_POS is a field of the state it is about. -/

open Sys2Proof Sys2Proof.Machine Sys2Proof.Safety

/-! Encoding (30_encoding.md). -/

/-- Decoding an encoded command gives the command back, with every operand at every value. That `decodeTableWord`
reads 32 bits as one word is the model's (log 23). -/
def Obligations.EncodeThenDecodeGivesTheCommandBack : Prop :=
  ∀ i : Instr, decode (encode i) = i ∧ decodeTableWord 32 (encode i).toNat = some i

/-- Encoding a decoded word gives the word back with every ignored bit 0; a reserved word gives NOP's word. -/
def Obligations.DecodeThenEncodeClearsTheIgnoredBits : Prop :=
  ∀ w : Word, encode (decode w) =
    if (opcField w).toNat = 0 then 0x00000000
    else if (opcField w).toNat = 1 then w &&& 0xFF0000FF
    else if (opcField w).toNat = 2 then w &&& 0xFF0001FF
    else if (opcField w).toNat = 3 then 0x03000000
    else if (opcField w).toNat = 4 then w
    else 0x00000000

/-- R72, R73: a word under mask 0xFF000000 decides the command, and the operands are the word's unsigned fields. -/
def Obligations.OpcodeAloneDecidesTheCommand : Prop :=
  ∀ w : Word,
    (w &&& 0xFF000000 = 0x00000000 → decode w = .nop) ∧
    (w &&& 0xFF000000 = 0x01000000 → decode w = .shiftp (BitVec.ofNat 8 (w.toNat % 256))) ∧
    (w &&& 0xFF000000 = 0x02000000 →
      decode w = .shiftg (BitVec.ofNat 8 (w.toNat % 256)) (decide (w.toNat / 256 % 2 = 1))) ∧
    (w &&& 0xFF000000 = 0x03000000 → decode w = .latch) ∧
    (w &&& 0xFF000000 = 0x04000000 → decode w = .render (BitVec.ofNat 24 (w.toNat % 16777216))) ∧
    (0x05000000 ≤ w.toNat → decode w = .nop)

/-- R74, its three points: a reserved word changes nothing and has no event, so the block is ready again at once; the
ignored bits have no effect; the assembler emits neither. -/
def Obligations.ReservedWordsAndIgnoredBitsHaveNoEffect : Prop :=
  (∀ (w : Word) (s : State), 0x05000000 ≤ w.toNat →
    exec (decode w) s = .next s ∧ commandEvents s.segPos (decode w) = []) ∧
  (∀ w v : Word, opcField w = opcField v →
    ((opcField w).toNat = 1 → w &&& 0xFF = v &&& 0xFF) →
    ((opcField w).toNat = 2 → w &&& 0x1FF = v &&& 0x1FF) →
    ((opcField w).toNat = 4 → w = v) →
    decode w = decode v) ∧
  (∀ (text : List Char) (words : List Word), assembleText text = some words →
    ∀ w ∈ words, encode (decode w) = w ∧ (opcField w).toNat ≤ 4)

/-- R81: the worked encodings, from source text to words, and from the words to the commands. -/
def Obligations.WorkedEncodings : Prop :=
  assembleText "NOP".toList = some [0x00000000] ∧ decode 0x00000000 = .nop ∧
  assembleText "SHIFTP 0x3F".toList = some [0x0100003F] ∧ decode 0x0100003F = .shiftp 0x3F ∧
  assembleText "SHIFTG 4".toList = some [0x02000004] ∧ decode 0x02000004 = .shiftg 0x04 false ∧
  assembleText "SHIFTG 4, DP".toList = some [0x02000104] ∧ decode 0x02000104 = .shiftg 0x04 true ∧
  assembleText "SHIFTG ' '".toList = some [0x02000020] ∧ decode 0x02000020 = .shiftg 0x20 false ∧
  assembleText "SHIFTG '-'".toList = some [0x0200002D] ∧ decode 0x0200002D = .shiftg 0x2D false ∧
  assembleText "SHIFTG 'c'".toList = some [0x02000063] ∧ decode 0x02000063 = .shiftg 0x63 false ∧
  assembleText "SHIFTG #0x41".toList = some [0x02000041] ∧ decode 0x02000041 = .shiftg 0x41 false ∧
  assembleText "LATCH".toList = some [0x03000000] ∧ decode 0x03000000 = .latch ∧
  assembleText "RENDER 42".toList = some [0x0400002A] ∧ decode 0x0400002A = .render 42 ∧
  assembleText "RENDER 12345".toList = some [0x04003039] ∧ decode 0x04003039 = .render 12345 ∧
  assembleText "RENDER 16777215".toList = some [0x04FFFFFF] ∧ decode 0x04FFFFFF = .render 16777215

/-- R78, R79, R80: a source line is rejected exactly when an operand is out of range or a quoted character is none of
the three; SHOW exactly when that holds of one of its four glyphs; a line without operands never. -/
def Obligations.AssemblerRejectsOperandsOutOfRange : Prop :=
  (∀ n, AsmLine.assemble (.shiftp n) = none ↔ 255 < n) ∧
  (∀ n, AsmLine.assemble (.render n) = none ↔ 16777215 < n) ∧
  (∀ n dp, AsmLine.assemble (.shiftg (.digit n) dp) = none ↔ 9 < n) ∧
  (∀ n dp, AsmLine.assemble (.shiftg (.raw n) dp) = none ↔ 255 < n) ∧
  (∀ c dp, AsmLine.assemble (.shiftg (.quoted c) dp) = none ↔ c ≠ ' ' ∧ c ≠ '-' ∧ c ≠ 'c') ∧
  (∀ d, '0' ≤ d → d ≤ '9' → ∀ dp, AsmLine.assemble (.shiftg (.quoted d) dp) = none) ∧
  (∀ g0 g1 g2 g3 : ShowOperand, AsmLine.assemble (.showFour g0 g1 g2 g3) = none ↔
    ∃ g ∈ [g0, g1, g2, g3],
      (∃ n, g.glyph = .digit n ∧ 9 < n) ∨ (∃ n, g.glyph = .raw n ∧ 255 < n) ∨
      (∃ c, g.glyph = .quoted c ∧ c ≠ ' ' ∧ c ≠ '-' ∧ c ≠ 'c')) ∧
  AsmLine.assemble .nop ≠ none ∧ AsmLine.assemble .latch ≠ none ∧ AsmLine.assemble .blank ≠ none

/-- R79: SHOW and BLANK expand to the rule's commands; run from a latched block, SHOW shows its four glyphs left to
right, each with its decimal point, and BLANK shows four blank cells. -/
def Obligations.ShowAndBlankDisplayTheirOperands : Prop :=
  (∀ g0 g1 g2 g3 : ShowOperand, AsmLine.expand (.showFour g0 g1 g2 g3) =
    [.shiftg g3.glyph.code g3.dp, .shiftg g2.glyph.code g2.dp, .shiftg g1.glyph.code g1.dp,
      .shiftg g0.glyph.code g0.dp, .latch]) ∧
  AsmLine.expand .blank = [.shiftp 0, .shiftp 0, .shiftp 0, .shiftp 0, .latch] ∧
  ∀ s : State, s.pending = 0 →
    (∀ g0 g1 g2 g3 : ShowOperand, ∃ t, runProgram (AsmLine.expand (.showFour g0 g1 g2 g3)) s = .next t ∧
      t.displayState =
        (some (enc s.segPos g0.glyph.code g0.dp), some (enc s.segPos g1.glyph.code g1.dp),
          some (enc s.segPos g2.glyph.code g2.dp), some (enc s.segPos g3.glyph.code g3.dp)) ∧
      t.faults = s.faults) ∧
    (∃ t, runProgram (AsmLine.expand .blank) s = .next t ∧ t.displayState = (some 0, some 0, some 0, some 0) ∧
      t.faults = s.faults)

/-! The segment encoder (40_segment_encoder.md). -/

/-- R100: the ROM holds a glyph's pattern at its code and 0x00 everywhere else, and at most one glyph has a code. -/
def Obligations.RomHoldsTheGlyphTable : Prop :=
  ∀ p : SegPos,
    (∀ g : Glyph, romRead p (glyphCode g) = pat p (lit g)) ∧
    (∀ code : Code, (∀ g : Glyph, glyphCode g ≠ code) → romRead p code = 0) ∧
    (∀ g h : Glyph, glyphCode g = glyphCode h → g = h)

/-- R112 to R121: the segments of each digit, under every SEG_POS, and the rules' numbers under REF_SEG_POS. -/
def Obligations.DigitGlyphsLightTheirSegments : Prop :=
  (∀ p : SegPos,
    enc p 0x00 false = pat p [.a, .b, .c, .d, .e, .f] ∧
    enc p 0x01 false = pat p [.b, .c] ∧
    enc p 0x02 false = pat p [.a, .b, .d, .e, .g] ∧
    enc p 0x03 false = pat p [.a, .b, .c, .d, .g] ∧
    enc p 0x04 false = pat p [.b, .c, .f, .g] ∧
    enc p 0x05 false = pat p [.a, .c, .d, .f, .g] ∧
    enc p 0x06 false = pat p [.a, .c, .d, .e, .f, .g] ∧
    enc p 0x07 false = pat p [.a, .b, .c] ∧
    enc p 0x08 false = pat p [.a, .b, .c, .d, .e, .f, .g] ∧
    enc p 0x09 false = pat p [.a, .b, .c, .d, .f, .g]) ∧
  enc .ref 0x00 false = 0x3F ∧ enc .ref 0x01 false = 0x06 ∧ enc .ref 0x02 false = 0x5B ∧
  enc .ref 0x03 false = 0x4F ∧ enc .ref 0x04 false = 0x66 ∧ enc .ref 0x05 false = 0x6D ∧
  enc .ref 0x06 false = 0x7D ∧ enc .ref 0x07 false = 0x07 ∧ enc .ref 0x08 false = 0x7F ∧
  enc .ref 0x08 true = 0xFF ∧ enc .ref 0x09 false = 0x6F

/-- R122 to R125: the three symbols, and blank for every other code under every SEG_POS. -/
def Obligations.SymbolGlyphsAndOtherCodes : Prop :=
  (∀ p : SegPos,
    enc p 0x20 false = pat p [] ∧ enc p 0x63 false = pat p [.d, .e, .g] ∧ enc p 0x2D false = pat p [.g] ∧
    ∀ code : Code,
      ((0x0A ≤ code ∧ code ≤ 0x1F) ∨ (0x21 ≤ code ∧ code ≤ 0x2C) ∨ (0x2E ≤ code ∧ code ≤ 0x62) ∨ 0x64 ≤ code) →
      enc p code false = 0x00 ∧ enc p code true = pat p [.dp]) ∧
  enc .ref 0x20 false = 0x00 ∧ enc .ref 0x20 true = 0x80 ∧ enc .ref 0x63 false = 0x58 ∧
  enc .ref 0x2D false = 0x40 ∧ enc .ref 0x41 false = 0x00 ∧ enc .ref 0x41 true = 0x80

/-- R101: no ROM entry has the dp bit. -/
def Obligations.NoRomEntryHasTheDecimalPoint : Prop :=
  ∀ (p : SegPos) (code : Code), romRead p code &&& bitOf p .dp = 0

/-- R111: with dp requested ENC sets the dp bit whatever the code and leaves the other bits; without it ENC is the ROM
entry; a code outside the glyph set gives all zero without dp, and the dp bit alone with it. -/
def Obligations.DecimalPointFlagSetsOnlyItsBit : Prop :=
  ∀ (p : SegPos) (code : Code),
    enc p code false = romRead p code ∧
    (enc p code true).getLsbD (p.pos .dp).val = true ∧
    (∀ i : Fin 8, i ≠ p.pos .dp → (enc p code true).getLsbD i.val = (romRead p code).getLsbD i.val) ∧
    ((∀ g : Glyph, glyphCode g ≠ code) → enc p code false = 0 ∧ enc p code true = bitOf p .dp)

/-- R104, R9: a pattern's bit at a segment's position is 1 exactly when the segment is in the set, and every position is
some segment's. -/
def Obligations.PatternBitsNameTheLitSegments : Prop :=
  ∀ p : SegPos,
    (∀ (set : List Segment) (s : Segment), (pat p set).getLsbD (p.pos s).val = decide (s ∈ set)) ∧
    (∀ i : Fin 8, ∃ s : Segment, p.pos s = i)

/-- R77, R110: the encoder port shows ENC of its inputs in every state, busy or not; and a move of the host on its
inputs, landing between commands or between two events of one (the landing is the model's, log 5), shows at once and
disturbs nothing else. -/
def Obligations.EncoderPortFollowsItsInputs : Prop :=
  (∀ s : State, s.encPat =
    if s.encDp then romRead s.segPos s.encCode ||| bitOf s.segPos .dp else romRead s.segPos s.encCode) ∧
  (∀ (s : State) (code : Code) (dp : Bool) (rest : List HostMove),
    s.rst = false → s.accepts = false → s.host = .encoderPort code dp :: rest →
    step s = .next { s with encCode := code, encDp := dp, host := rest } ∧
    ({ s with encCode := code, encDp := dp, host := rest } : State).encPat = enc s.segPos code dp)

/-! Events and the chain (41_display_driver.md). -/

/-- R130, R136, R137, R139: one event sets its line and no other; a CLK rise shifts S, a LAT rise copies S to O, and no
other event touches either; nothing else changes. -/
def Obligations.DriveActsOnlyOnRisingEdges : Prop :=
  ∀ (l : Line) (v : Bool) (s : State),
    (drive l v s).level l = v ∧
    (∀ k : Line, k ≠ l → (drive l v s).level k = s.level k) ∧
    (l = .clk → s.clk = false → v = true →
      (drive l v s).storage[0] = some s.dat ∧
      ∀ i : Fin 31, (drive l v s).storage[i.val + 1] = s.storage[i.val]) ∧
    (¬ (l = .clk ∧ s.clk = false ∧ v = true) → (drive l v s).storage = s.storage) ∧
    (l = .lat → s.lat = false → v = true → (drive l v s).output = s.storage) ∧
    (¬ (l = .lat ∧ s.lat = false ∧ v = true) → (drive l v s).output = s.output) ∧
    drive l v s =
      { s with
        clk := (drive l v s).clk, dat := (drive l v s).dat, lat := (drive l v s).lat,
        storage := (drive l v s).storage, output := (drive l v s).output }

/-- R131: PULSE is two events, makes exactly one rising edge from either level and leaves the line HIGH. From HIGH the
first event is the falling edge; from LOW it changes nothing. -/
def Obligations.PulseMakesOneRisingEdge : Prop :=
  ∀ (l : Line) (s : State),
    pulse l s = (pulseEvents l).foldl (fun u e => applyEvent e u) s ∧
    pulseEvents l = [⟨l, false⟩, ⟨l, true⟩] ∧
    countRises l (s.level l) (pulseEvents l) = 1 ∧
    (pulse l s).level l = true ∧
    (drive l false s).level l = false ∧
    (s.level l = false → drive l false s = s)

/-- R138: of four patterns the first shifted ends in cell 3 and the last in cell 0, whatever S held. -/
def Obligations.FirstPatternShiftedEndsFarthest : Prop :=
  ∀ (q0 q1 q2 q3 : Pattern) (s : State) (i : Fin 8),
    (shiftDigit q3 (shiftDigit q2 (shiftDigit q1 (shiftDigit q0 s)))).storage[i.val] = some (q3.getLsbD i.val) ∧
    (shiftDigit q3 (shiftDigit q2 (shiftDigit q1 (shiftDigit q0 s)))).storage[8 + i.val] = some (q2.getLsbD i.val) ∧
    (shiftDigit q3 (shiftDigit q2 (shiftDigit q1 (shiftDigit q0 s)))).storage[16 + i.val] = some (q1.getLsbD i.val) ∧
    (shiftDigit q3 (shiftDigit q2 (shiftDigit q1 (shiftDigit q0 s)))).storage[24 + i.val] = some (q0.getLsbD i.val)

/-- R140: thirty-two CLK rises set every bit of S from DAT, and an update's DisplayState depends on its four patterns
only. -/
def Obligations.FullUpdateForgetsThePast : Prop :=
  (∀ (bits : Vector Bool 32) (s : State) (i : Fin 32),
    (bits.toList.foldl (fun u b => shiftBit b u) s).storage[i] = some bits[31 - i.val]) ∧
  (∀ (q0 q1 q2 q3 : Pattern) (s t : State),
    (latchPulse (shiftDigit q3 (shiftDigit q2 (shiftDigit q1 (shiftDigit q0 s))))).displayState =
      (latchPulse (shiftDigit q3 (shiftDigit q2 (shiftDigit q1 (shiftDigit q0 t))))).displayState)

/-- R29: a cell shows a pattern exactly when all its eight bits are known and are the pattern's. -/
def Obligations.CellPatternNeedsAllEightBits : Prop :=
  ∀ (s : State) (k : Fin 4) (p : Pattern),
    s.cellPattern k = some p ↔ ∀ i : Fin 8, s.output[8 * k.val + i.val] = some (p.getLsbD i.val)

/-! The commands. Each completes in every state, with everything it does not name unchanged. Where a register's final
value is a choice of the model (BITIDX and DIGIDX after their count, log 12), the statement leaves it open. -/

/-- R141: NOP, of any word with its opcode or a reserved one, leaves every piece of state as it was, and has no
event. -/
def Obligations.NopChangesNothing : Prop :=
  (∀ s : State, exec .nop s = .next s ∧ commandEvents s.segPos .nop = []) ∧
  ∀ w : Word, opcField w = 0x00 ∨ 0x05 ≤ (opcField w).toNat → decode w = .nop

/-- R142, R133: SHIFTP shifts its pattern as given: SR and DAT, CLK HIGH, PENDING one more, the pattern in stages 0..7
and every older bit eight stages further down; every other register, O, FAULT and LAT unchanged; its 24 events, most
significant bit first. -/
def Obligations.ShiftpShiftsItsPattern : Prop :=
  (∀ (p : Pattern) (s : State), ∃ t b,
    exec (.shiftp p) s = .next t ∧
    t = { s with
      sr := p, bitIdx := b, phase := .idle, clk := true, dat := p.getLsbD 0, pending := s.pending + 1,
      storage := t.storage } ∧
    (∀ i : Fin 8, t.storage[i.val] = some (p.getLsbD i.val)) ∧
    (∀ i : Fin 24, t.storage[i.val + 8] = s.storage[i.val]) ∧
    commandEvents s.segPos (.shiftp p) =
      [7, 6, 5, 4, 3, 2, 1, 0].flatMap (fun i => [⟨.dat, p.getLsbD i⟩, ⟨.clk, false⟩, ⟨.clk, true⟩]) ∧
    (commandEvents s.segPos (.shiftp p)).length = 24) ∧
  ∀ w : Word, opcField w = 0x01 → decode w = .shiftp (BitVec.ofNat 8 (w.toNat % 256))

/-- R160: SHIFTG shifts the ROM's entry, with the dp bit where asked for, and is otherwise as SHIFTP. -/
def Obligations.ShiftgShiftsTheEncodedGlyph : Prop :=
  (∀ (code : Code) (dp : Bool) (s : State), ∃ t b,
    exec (.shiftg code dp) s = .next t ∧
    t = { s with
      sr := enc s.segPos code dp, bitIdx := b, phase := .idle, clk := true,
      dat := (enc s.segPos code dp).getLsbD 0, pending := s.pending + 1, storage := t.storage } ∧
    (∀ i : Fin 8, t.storage[i.val] = some ((enc s.segPos code dp).getLsbD i.val)) ∧
    (∀ i : Fin 24, t.storage[i.val + 8] = s.storage[i.val]) ∧
    commandEvents s.segPos (.shiftg code dp) =
      [7, 6, 5, 4, 3, 2, 1, 0].flatMap
        (fun i => [⟨.dat, (enc s.segPos code dp).getLsbD i⟩, ⟨.clk, false⟩, ⟨.clk, true⟩]) ∧
    (commandEvents s.segPos (.shiftg code dp)).length = 24) ∧
  ∀ w : Word, opcField w = 0x02 →
    decode w = .shiftg (BitVec.ofNat 8 (w.toNat % 256)) (decide (w.toNat / 256 % 2 = 1))

/-- R143, R134: LATCH copies S to O, leaves LAT HIGH and PENDING 0, records LATCH_COUNT with the PENDING it found
exactly when that was not 4, and changes nothing else; its two events. -/
def Obligations.LatchCommitsTheStorageStage : Prop :=
  (∀ s : State,
    exec .latch s = .next
      { s with
        phase := .idle, lat := true, output := s.storage, pending := 0,
        faults := if s.pending = 4 then s.faults else s.faults ++ [⟨.latchCount, s.pending, s.accepted⟩] } ∧
    commandEvents s.segPos .latch = [⟨.lat, false⟩, ⟨.lat, true⟩] ∧
    countRises .lat s.lat (commandEvents s.segPos .latch) = 1) ∧
  ∀ w : Word, opcField w = 0x03 → decode w = .latch

/-- R161, R168: RENDER's next state. Four digits, units first, each encoded without dp; then the latch, which records a
fault if PENDING was not 0. Its 98 events, digit by digit. -/
def Obligations.RenderShiftsFourDigitsAndLatches : Prop :=
  (∀ (m : Magnitude) (s : State), ∃ b d,
    let digit := fun k => enc s.segPos (glyphCode (.digit (renderedDigit m k))) false
    exec (.render m) s = .next
      { s with
        phase := .idle, sr := digit 3, bitIdx := b, digIdx := d, mag := BitVec.ofNat 24 (m.toNat / 10000),
        clk := true, lat := true, dat := (digit 3).getLsbD 0, pending := 0,
        faults := if s.pending = 0 then s.faults else s.faults ++ [⟨.latchCount, s.pending + 4, s.accepted⟩],
        storage := image (digit 3) (digit 2) (digit 1) (digit 0),
        output := image (digit 3) (digit 2) (digit 1) (digit 0) } ∧
    commandEvents s.segPos (.render m) =
      ([0, 1, 2, 3].flatMap fun k => [7, 6, 5, 4, 3, 2, 1, 0].flatMap
        fun i => [⟨.dat, (digit k).getLsbD i⟩, ⟨.clk, false⟩, ⟨.clk, true⟩]) ++ [⟨.lat, false⟩, ⟨.lat, true⟩] ∧
    (commandEvents s.segPos (.render m)).length = 98 ∧
    countRises .clk s.clk (commandEvents s.segPos (.render m)) = 32 ∧
    countRises .lat s.lat (commandEvents s.segPos (.render m)) = 1) ∧
  ∀ w : Word, opcField w = 0x04 → decode w = .render (BitVec.ofNat 24 (w.toNat % 16777216))

/-- R162, R163, R164, R166: after RENDER the display reads, left to right, thousands, hundreds, tens and units of
MAG mod 10000, leading zeros included and no decimal point; from any state, with SEG_POS its only input besides MAG. -/
def Obligations.RenderDisplaysMagModulo10000 : Prop :=
  ∀ (m : Magnitude) (s : State), ∃ t, exec (.render m) s = .next t ∧
    ∀ n, n = m.toNat % 10000 →
      ∃ h3 h2 h1 h0,
        t.displayState =
          (some (pat s.segPos (lit (.digit ⟨n / 1000, h3⟩))), some (pat s.segPos (lit (.digit ⟨n / 100 % 10, h2⟩))),
            some (pat s.segPos (lit (.digit ⟨n / 10 % 10, h1⟩))), some (pat s.segPos (lit (.digit ⟨n % 10, h0⟩)))) ∧
        ∀ k : Fin 4, ∀ q, t.cellPattern k = some q → q.getLsbD (s.segPos.pos .dp).val = false

/-- R167: RENDER records a fault exactly when PENDING was not 0, then with at least 5, and the display shows its four
digits all the same. PENDING is 0 after reset, after any LATCH and after any RENDER. -/
def Obligations.RenderFaultsExactlyOnUnlatchedShifts : Prop :=
  (∀ (m : Magnitude) (s : State), ∃ t u, exec (.render m) s = .next t ∧
    exec (.render m) { s with pending := 0 } = .next u ∧
    (t.faults = s.faults ↔ s.pending = 0) ∧
    (s.pending ≠ 0 → ∃ r, t.faults = s.faults ++ [r] ∧ r.kind = .latchCount ∧ 5 ≤ r.info) ∧
    t.displayState = u.displayState ∧ t.displayKnown = true ∧ t.pending = 0) ∧
  (∀ s : State, ∃ t, exec .latch s = .next t ∧ t.pending = 0) ∧
  State.reset.pending = 0 ∧ ∀ s : State, (blockReset s).pending = 0 ∧ (powerOnReset s).pending = 0

/-- R59: a second LATCH with no shift in between leaves O as the first did, and is recorded with PENDING 0. The
record's count is the model's (log 10). -/
def Obligations.RepeatedLatchKeepsTheDisplay : Prop :=
  ∀ s : State, ∃ t u, exec .latch s = .next t ∧ exec .latch t.accept = .next u ∧
    u.output = t.output ∧ u.storage = s.storage ∧
    u.faults = t.faults ++ [⟨.latchCount, 0, s.accepted + 1⟩]

/-- The document's idempotence (R59, R140): an update issued twice in a row shows the same both times. -/
def Obligations.UpdateIsIdempotentOnTheDisplay : Prop :=
  ∀ (update : List Instr) (s : State), isUpdate update = true →
    ∃ t u, runProgram update s = .next t ∧ runProgram update t = .next u ∧
      u.displayState = t.displayState ∧ t.displayKnown = true

/-! Event lists and the sequencer (00_scope.md R12; 10_state.md R23; 70_reset_and_hazards.md R235). -/

/-- R235: the events, CLK rises and LAT rises of every command, from any line levels. -/
def Obligations.EventCountsPerCommand : Prop :=
  ∀ (p : SegPos) (clk lat : Bool) (pattern : Pattern) (code : Code) (dp : Bool) (m : Magnitude),
    (commandEvents p .nop = []) ∧
    ((commandEvents p (.shiftp pattern)).length = 24 ∧
      countRises .clk clk (commandEvents p (.shiftp pattern)) = 8 ∧
      countRises .lat lat (commandEvents p (.shiftp pattern)) = 0) ∧
    ((commandEvents p (.shiftg code dp)).length = 24 ∧
      countRises .clk clk (commandEvents p (.shiftg code dp)) = 8 ∧
      countRises .lat lat (commandEvents p (.shiftg code dp)) = 0) ∧
    ((commandEvents p .latch).length = 2 ∧
      countRises .clk clk (commandEvents p .latch) = 0 ∧ countRises .lat lat (commandEvents p .latch) = 1) ∧
    ((commandEvents p (.render m)).length = 98 ∧
      countRises .clk clk (commandEvents p (.render m)) = 32 ∧
      countRises .lat lat (commandEvents p (.render m)) = 1) ∧
    (∀ w : Word, 0x05000000 ≤ w.toNat → commandEvents p (decode w) = [])

/-- A command does to the lines and to the chain exactly what its events do, applied in order (R12, R62). -/
def Obligations.CommandIsItsEventsInOrder : Prop :=
  ∀ (i : Instr) (s : State), ∃ t u, exec i s = .next t ∧
    u = (commandEvents s.segPos i).foldl (fun v e => applyEvent e v) s ∧
    t.clk = u.clk ∧ t.dat = u.dat ∧ t.lat = u.lat ∧ t.storage = u.storage ∧ t.output = u.output

/-- R23, R145: run event by event from acceptance, a command drives its event list, is busy from its first event to
its last, and ends in the state `exec` gives, IDLE. Where the register updates fall between events is the model's
(log 11, log 13). -/
def Obligations.EventByEventRunIsTheCommand : Prop :=
  ∀ (i : Instr) (s : State), s.phase = .idle →
    exec i s = .next (runEvents (eventCount i) (beginCommand i s)) ∧
    eventTrace (eventCount i) (beginCommand i s) = commandEvents s.segPos i ∧
    (∀ n, n < eventCount i → (runEvents n (beginCommand i s)).cmdReady = false) ∧
    (runEvents (eventCount i) (beginCommand i s)).cmdReady = true

/-- R200, R23: every step answers a next state, and every command in progress ends within 98 events. -/
def Obligations.EveryEventSequenceCompletes : Prop :=
  (∀ s : State, ∃ t, step s = .next t) ∧
  (∀ s : State, ∃ n, n ≤ 98 ∧ (runEvents n s).phase = .idle)

/-! Steps. -/

/-- With RST low and CMD_VALID and CMD_READY HIGH, a step accepts the decoded command, at the state in which it is
counted and no longer on offer: with no pause the step is `exec` of it, with a pause of n events it begins the command
and makes n of its events. The word put by `withFetchWord` is run by the very next step. The count, the withdrawal of
the offer and the pause are the model's (log 10, log 9, log 4). -/
def Obligations.StepRunsTheDecodedCommand : Prop :=
  (∀ s : State, s.rst = false → s.cmdValid = true → s.phase = .idle → s.pauseAfter = none →
    step s = exec (decode s.cmd) { s with accepted := s.accepted + 1, cmdValid := false, pauseAfter := none }) ∧
  (∀ (s : State) (n : Nat), s.rst = false → s.cmdValid = true → s.phase = .idle → s.pauseAfter = some n →
    step s = .next (runEvents n (beginCommand (decode s.cmd)
      { s with accepted := s.accepted + 1, cmdValid := false, pauseAfter := none }))) ∧
  (∀ (s : State) (w : Word),
    step (s.withFetchWord 32 w.toNat) = exec (decode w) (s.withFetchWord 32 w.toNat).accept)

/-- R23: with RST low, a busy block on which no move of the host lands makes the next event of its command. No move
lands where none is to come, or where an offer waits for the one still on CMD (log 5). -/
def Obligations.BusyStepMakesTheNextEvent : Prop :=
  ∀ s : State, s.rst = false → s.phase ≠ .idle →
    (s.host = [] ∨ (s.cmdValid = true ∧ ∃ word pause rest, s.host = .offer word pause :: rest)) →
    step s = .next (tick s)

/-- R200, R23, under `step`: with RST low and no move of the host to come, at most 98 steps lead to IDLE, in the state
that the command's remaining events give; and a command accepted with a pause, then left alone, ends in the state
`exec` gives it, in at most 99 steps. The moves to come and the pause are the model's (log 5, log 4). -/
def Obligations.StepsCompleteTheCommandAsExec : Prop :=
  (∀ s : State, s.rst = false → s.cmdValid = false → s.host = [] →
    ∃ n, n ≤ 98 ∧ Host.Core.run core n s = .next (runEvents n s) ∧ (runEvents n s).phase = .idle) ∧
  (∀ (s : State) (m : Nat),
    s.rst = false → s.cmdValid = true → s.phase = .idle → s.pauseAfter = some m → s.host = [] →
    ∃ n, n ≤ 99 ∧ Host.Core.run core n s =
      exec (decode s.cmd) { s with accepted := s.accepted + 1, cmdValid := false, pauseAfter := none })

/-- R21: where the host's next move is on a port and can land, it sets its ports and nothing else; with RST HIGH the
block resets at that boundary first. An offer waits while another word is on CMD. The moves are the model's (log 5,
log 8). -/
def Obligations.HostMovesLandOnTheirPorts : Prop :=
  ∀ (s u : State) (rest : List HostMove),
    ((s.rst = true ∧ u = blockReset s) ∨ (s.rst = false ∧ s.accepts = false ∧ u = s)) →
    (∀ word pause, s.host = .offer word pause :: rest → s.cmdValid = false →
      step s = .next { u with host := rest, cmd := word, cmdValid := true, pauseAfter := pause }) ∧
    (∀ level, s.host = .driveRst level :: rest → step s = .next { u with host := rest, rst := level }) ∧
    (∀ code dp, s.host = .encoderPort code dp :: rest →
      step s = .next { u with host := rest, encCode := code, encDp := dp }) ∧
    (∀ word pause, s.host = .offer word pause :: rest → s.cmdValid = true → s.rst = true → step s = .next u)

/-- R220: an IDLE block with RST low, nothing on offer and no move of the host to come waits as it is. The moves to
come are the model's (log 5). -/
def Obligations.IdleBlockWaitsForACommand : Prop :=
  ∀ s : State, s.rst = false → s.phase = .idle → s.cmdValid = false → s.host = [] → step s = .next s

/-- R227: a command offered while the block is busy is not accepted and stays on offer, whatever else the step does
short of losing power or seeing RST. That the host holds its offer is the model's (log 5). -/
def Obligations.BusyBlockHoldsTheOffer : Prop :=
  ∀ s : State, s.rst = false → s.cmdReady = false → s.cmdValid = true → s.host.head? ≠ some .powerCycle →
    ∃ t, step s = .next t ∧ t.cmd = s.cmd ∧ t.cmdValid = true ∧ t.accepted = s.accepted ∧
      t.pauseAfter = s.pauseAfter

/-- R221, R202: with RST HIGH the step is the block-only reset, whatever the block is doing and whatever is on offer;
the chain keeps power, so the host's next move is no power cycle. -/
def Obligations.RstAbandonsTheCommandAndKeepsTheDisplay : Prop :=
  ∀ s : State, s.rst = true → s.host.head? ≠ some .powerCycle → ∃ t, step s = .next t ∧
    t.clk = false ∧ t.dat = false ∧ t.lat = false ∧ t.phase = .idle ∧ t.cmdReady = true ∧
    t.pending = 0 ∧ t.faults = [] ∧ t.output = s.output ∧ t.displayState = s.displayState ∧
    (∀ i : Fin 32, t.storage[i] = none) ∧ t.segPos = s.segPos

/-- R202, R221: while RST is HIGH and the host does nothing more, each step finds and leaves the block reset, and the
command on offer is not accepted. That RST is a level the host holds is the model's reading (log 8). -/
def Obligations.HeldRstHoldsTheBlock : Prop :=
  ∀ (s : State) (n : Nat), s.rst = true → s.host = [] → ∃ t, Host.Core.run core (n + 1) s = .next t ∧
    t.rst = true ∧ t.phase = .idle ∧ t.clk = false ∧ t.dat = false ∧ t.lat = false ∧ t.pending = 0 ∧ t.faults = [] ∧
    t.accepted = 0 ∧ t.cmd = s.cmd ∧ t.cmdValid = s.cmdValid ∧ t.output = s.output ∧
    (∀ i : Fin 32, t.storage[i] = none)

/-- R221: RST after any number of events of a command short of its LAT rise, HIGH for one boundary, leaves the display
as it was before the command, and none of the command's other events happen. The pause, the moves of the host and RST
as a level are the model's (log 4, log 5, log 8). -/
def Obligations.RstInsideACommandKeepsTheDisplay : Prop :=
  ∀ (s : State) (n : Nat) (rest : List HostMove),
    s.rst = false → s.cmdValid = true → s.phase = .idle → s.pauseAfter = some n →
    s.host = .driveRst true :: .driveRst false :: rest →
    (decode s.cmd = .latch → n ≤ 1) → (∀ m, decode s.cmd = .render m → n ≤ 97) →
    ∃ t, Host.Core.run core 3 s = .next t ∧
      t.output = s.output ∧ t.phase = .idle ∧ t.clk = false ∧ t.dat = false ∧ t.lat = false ∧
      t.pending = 0 ∧ t.faults = [] ∧ (∀ i : Fin 32, t.storage[i] = none) ∧ t.rst = false ∧ t.host = rest

/-- R220: the power-on reset, of the reset state and of one inside a run. The block then waits: it has no event to
make. -/
def Obligations.PowerOnResetValues : Prop :=
  ∀ s t : State, (t = State.reset ∨ t = powerOnReset s) →
    t.clk = false ∧ t.dat = false ∧ t.lat = false ∧ t.phase = .idle ∧ t.cmdReady = true ∧
    t.pending = 0 ∧ t.faults = [] ∧ (∀ i : Fin 32, t.storage[i] = none ∧ t.output[i] = none) ∧
    t.displayState = (none, none, none, none) ∧ nextEvent t = none ∧ tick t = t

/-- R213: power that is lost and returns is a power-on reset, with RST LOW and with RST HIGH. That it comes as a move of
the host, and that the input ports, the moves still to come and SEG_POS outlive it, is the model's choice (log 21). -/
def Obligations.PowerLossIsAPowerOnReset : Prop :=
  ∀ (s : State) (rest : List HostMove), s.rst = true ∨ s.accepts = false → s.host = .powerCycle :: rest →
    ∃ t, step s = .next t ∧
      t = powerOnReset { (if s.rst then blockReset s else s) with host := rest } ∧
      t.rst = s.rst ∧ t.cmd = s.cmd ∧ t.cmdValid = s.cmdValid ∧ t.encCode = s.encCode ∧ t.encDp = s.encDp ∧
      t.host = rest ∧ t.segPos = s.segPos ∧
      t.clk = false ∧ t.dat = false ∧ t.lat = false ∧ t.phase = .idle ∧ t.pending = 0 ∧ t.faults = [] ∧
      ∀ i : Fin 32, t.storage[i] = none ∧ t.output[i] = none

/-- R203, the n of a record: 0 after every reset, one more at every step that accepts a command, the same after every
other step. What is counted is the model's (log 10). -/
def Obligations.RecordCountCountsAcceptedCommands : Prop :=
  State.reset.accepted = 0 ∧ (∀ s : State, (powerOnReset s).accepted = 0 ∧ (blockReset s).accepted = 0) ∧
  ∀ s t : State, step s = .next t →
    t.accepted =
      if s.rst = true then 0
      else if s.accepts = true then s.accepted + 1
      else if s.host.head? = some .powerCycle then 0
      else s.accepted

/-! Whole-machine rules and invariants. -/

/-- R30, R58: a step leaves O whole as it was, or whole as S is after it; and it changes O only where a LATCH or
RENDER is accepted or in progress, or power is lost. The power cycle as a move is the model's (log 21). -/
def Obligations.OnlyALatchChangesTheDisplay : Prop :=
  ∀ s t : State, step s = .next t →
    (t.output = s.output ∨ t.output = t.storage) ∧
    (t.output ≠ s.output →
      s.host.head? = some .powerCycle ∨
      (s.rst = false ∧
        ((s.accepts = true ∧ (decode s.cmd = .latch ∨ ∃ m, decode s.cmd = .render m)) ∨
          (∃ k, s.phase = .latching k) ∨ (∃ k, s.phase = .rendering k))))

/-- R28: FAULT starts empty; a step adds at most one record, of the one kind and with a PENDING other than 4, and
removes none, unless it is a reset, which empties it. The power-on reset inside a run comes as a move of the host
(log 21). -/
def Obligations.FaultListIsSticky : Prop :=
  State.reset.faults = [] ∧
  ∀ s t : State, step s = .next t →
    (∃ new : List FaultRecord, t.faults = s.faults ++ new ∧ new.length ≤ 1 ∧
      ∀ r ∈ new, r.kind = .latchCount ∧ r.info ≠ 4) ∨
    ((s.rst = true ∨ s.host.head? = some .powerCycle) ∧ t.faults = [])

/-- R9, R25: no step changes SEG_POS, so the glyph ROM is the same after every step (R26, R65). -/
def Obligations.NoStepChangesSegPosOrTheRom : Prop :=
  ∀ s t : State, step s = .next t → t.segPos = s.segPos ∧ ∀ code, romRead t.segPos code = romRead s.segPos code

/-- R51, R210: the chain cannot be read back. Two states that differ only in the chain's stages step to two states that
differ only there. -/
def Obligations.TheBlockCannotReadTheChain : Prop :=
  ∀ s t s' t' : State, sameButChain s t → step s = .next s' → step t = .next t' → sameButChain s' t'

/-- The sequencer's registers agree with its position, DAT holds the bit when CLK rises and CLK and LAT are LOW
before their rises: kept by every step (R22, R23, R135, R161). Where the updates fall between events is the model's
(log 13). -/
def Obligations.StepKeepsTheSequencerConsistent : Prop :=
  ∀ s t : State, sequencerConsistent s → step s = .next t → sequencerConsistent t

/-- The storage stages that PENDING counts as shifted are known: kept by every step (R229) from a state whose
sequencer is consistent, which StepKeepsTheSequencerConsistent keeps (with CLK already HIGH where its rise is next, no
edge would come). -/
def Obligations.StepKeepsTheCountedStorageKnown : Prop :=
  ∀ s t : State, sequencerConsistent s → storageKnown s → step s = .next t → storageKnown t

/-- Both invariants hold at reset. -/
def Obligations.InvariantsHoldAtReset : Prop :=
  sequencerConsistent State.reset ∧ storageKnown State.reset

/-- R229: where the counted storage is known, a LATCH that the monitor does not fault shows a pattern in every cell. -/
def Obligations.UnfaultedLatchShowsAKnownDisplay : Prop :=
  ∀ s : State, storageKnown s → s.pending = 4 →
    ∃ t, exec .latch s = .next t ∧ t.displayKnown = true ∧ t.faults = s.faults ∧
      ∀ k : Fin 4, ∃ p, t.cellPattern k = some p

/-- R174 duty 2, R224, R204: a list of commands keeps the latch contract exactly when running it records no fault, and
then PENDING is the contract's count. What is counted is the model's (log 10). -/
def Obligations.ContractKeptExactlyWhenNoFaultIsRecorded : Prop :=
  ∀ (program : List Instr) (s : State), ∃ t, runProgram program s = .next t ∧
    (t.faults = s.faults ↔ (contractRun s.pending program).isSome) ∧
    (∀ k, contractRun s.pending program = some k → t.pending = k) ∧
    t.accepted = s.accepted + program.length

/-- R21, R62: a program offered through the command port, one command at a time, runs as its commands do in turn; only
CMD differs, and holds the last word offered, or what it held where the program is empty. The offers as moves and their
withdrawal are the model's (log 5, log 6, log 9). -/
def Obligations.OfferedProgramRunsInOrder : Prop :=
  ∀ (program : List Instr) (s : State), quiet s = true →
    ∃ t, runProgram program { s with host := [] } = .next t ∧
      Host.Core.run core (2 * program.length) { s with host := offers program } =
        .next { t with cmd := (program.map encode).getLastD s.cmd }

/-! The host's side (42_number_renderer.md R170 to R173). -/

/-- R170, R171, R173: the host passes floor(abs(value)), below 2^24 itself and from there on modulo 10000; the sign
makes no difference; and the low four digits are always the value's. Numbers are exact rationals (log 20). -/
def Obligations.HostMagnitudeKeepsTheLowFourDigits : Prop :=
  (∀ q : Rat, 0 ≤ q → hostRender (.number q) = some (.render (hostMag ⌊q⌋.toNat))) ∧
  (∀ q : Rat, hostRender (.number (-q)) = hostRender (.number q)) ∧
  (∀ m : Nat, (m < 16777216 → (hostMag m).toNat = m) ∧ (16777216 ≤ m → (hostMag m).toNat = m % 10000)) ∧
  (∀ m : Nat, (hostMag m).toNat % 10000 = m % 10000)
end

