-- ==== Sys2Proof/Laws/State.lean ====
section
/-! SUPPORT. One lemma per field per named update of State, true by computation. -/

namespace Sys2Proof.Machine

/-! `clkRise`. -/

@[simp] theorem clkRise_clk (s : State) : (clkRise s).clk = s.clk := by dsimp only [clkRise]
@[simp] theorem clkRise_dat (s : State) : (clkRise s).dat = s.dat := by dsimp only [clkRise]
@[simp] theorem clkRise_lat (s : State) : (clkRise s).lat = s.lat := by dsimp only [clkRise]
@[simp] theorem clkRise_rst (s : State) : (clkRise s).rst = s.rst := by dsimp only [clkRise]
@[simp] theorem clkRise_cmd (s : State) : (clkRise s).cmd = s.cmd := by dsimp only [clkRise]
@[simp] theorem clkRise_cmdValid (s : State) : (clkRise s).cmdValid = s.cmdValid := by dsimp only [clkRise]
@[simp] theorem clkRise_encCode (s : State) : (clkRise s).encCode = s.encCode := by dsimp only [clkRise]
@[simp] theorem clkRise_encDp (s : State) : (clkRise s).encDp = s.encDp := by dsimp only [clkRise]
@[simp] theorem clkRise_phase (s : State) : (clkRise s).phase = s.phase := by dsimp only [clkRise]
@[simp] theorem clkRise_sr (s : State) : (clkRise s).sr = s.sr := by dsimp only [clkRise]
@[simp] theorem clkRise_bitIdx (s : State) : (clkRise s).bitIdx = s.bitIdx := by dsimp only [clkRise]
@[simp] theorem clkRise_digIdx (s : State) : (clkRise s).digIdx = s.digIdx := by dsimp only [clkRise]
@[simp] theorem clkRise_mag (s : State) : (clkRise s).mag = s.mag := by dsimp only [clkRise]
@[simp] theorem clkRise_pending (s : State) : (clkRise s).pending = s.pending := by dsimp only [clkRise]
@[simp] theorem clkRise_faults (s : State) : (clkRise s).faults = s.faults := by dsimp only [clkRise]
@[simp] theorem clkRise_accepted (s : State) : (clkRise s).accepted = s.accepted := by dsimp only [clkRise]
@[simp] theorem clkRise_storage (s : State) :
    (clkRise s).storage = shiftIn (some s.dat) s.storage := by dsimp only [clkRise]
@[simp] theorem clkRise_output (s : State) : (clkRise s).output = s.output := by dsimp only [clkRise]
@[simp] theorem clkRise_segPos (s : State) : (clkRise s).segPos = s.segPos := by dsimp only [clkRise]
@[simp] theorem clkRise_host (s : State) : (clkRise s).host = s.host := by dsimp only [clkRise]
@[simp] theorem clkRise_pauseAfter (s : State) : (clkRise s).pauseAfter = s.pauseAfter := by dsimp only [clkRise]
@[simp] theorem clkRise_freeCount (s : State) : (clkRise s).freeCount = s.freeCount := by dsimp only [clkRise]

/-! `latRise`. -/

@[simp] theorem latRise_clk (s : State) : (latRise s).clk = s.clk := rfl
@[simp] theorem latRise_dat (s : State) : (latRise s).dat = s.dat := rfl
@[simp] theorem latRise_lat (s : State) : (latRise s).lat = s.lat := rfl
@[simp] theorem latRise_rst (s : State) : (latRise s).rst = s.rst := rfl
@[simp] theorem latRise_cmd (s : State) : (latRise s).cmd = s.cmd := rfl
@[simp] theorem latRise_cmdValid (s : State) : (latRise s).cmdValid = s.cmdValid := rfl
@[simp] theorem latRise_encCode (s : State) : (latRise s).encCode = s.encCode := rfl
@[simp] theorem latRise_encDp (s : State) : (latRise s).encDp = s.encDp := rfl
@[simp] theorem latRise_phase (s : State) : (latRise s).phase = s.phase := rfl
@[simp] theorem latRise_sr (s : State) : (latRise s).sr = s.sr := rfl
@[simp] theorem latRise_bitIdx (s : State) : (latRise s).bitIdx = s.bitIdx := rfl
@[simp] theorem latRise_digIdx (s : State) : (latRise s).digIdx = s.digIdx := rfl
@[simp] theorem latRise_mag (s : State) : (latRise s).mag = s.mag := rfl
@[simp] theorem latRise_pending (s : State) : (latRise s).pending = s.pending := rfl
@[simp] theorem latRise_faults (s : State) : (latRise s).faults = s.faults := rfl
@[simp] theorem latRise_accepted (s : State) : (latRise s).accepted = s.accepted := rfl
@[simp] theorem latRise_storage (s : State) : (latRise s).storage = s.storage := rfl
@[simp] theorem latRise_output (s : State) : (latRise s).output = s.storage := rfl
@[simp] theorem latRise_segPos (s : State) : (latRise s).segPos = s.segPos := rfl
@[simp] theorem latRise_host (s : State) : (latRise s).host = s.host := rfl
@[simp] theorem latRise_pauseAfter (s : State) : (latRise s).pauseAfter = s.pauseAfter := rfl
@[simp] theorem latRise_freeCount (s : State) : (latRise s).freeCount = s.freeCount := rfl

/-! `loadPattern`. -/

@[simp] theorem loadPattern_clk (p : Pattern) (s : State) : (loadPattern p s).clk = s.clk := rfl
@[simp] theorem loadPattern_dat (p : Pattern) (s : State) : (loadPattern p s).dat = s.dat := rfl
@[simp] theorem loadPattern_lat (p : Pattern) (s : State) : (loadPattern p s).lat = s.lat := rfl
@[simp] theorem loadPattern_rst (p : Pattern) (s : State) : (loadPattern p s).rst = s.rst := rfl
@[simp] theorem loadPattern_cmd (p : Pattern) (s : State) : (loadPattern p s).cmd = s.cmd := rfl
@[simp] theorem loadPattern_cmdValid (p : Pattern) (s : State) : (loadPattern p s).cmdValid = s.cmdValid := rfl
@[simp] theorem loadPattern_encCode (p : Pattern) (s : State) : (loadPattern p s).encCode = s.encCode := rfl
@[simp] theorem loadPattern_encDp (p : Pattern) (s : State) : (loadPattern p s).encDp = s.encDp := rfl
@[simp] theorem loadPattern_phase (p : Pattern) (s : State) : (loadPattern p s).phase = s.phase := rfl
@[simp] theorem loadPattern_sr (p : Pattern) (s : State) : (loadPattern p s).sr = p := rfl
@[simp] theorem loadPattern_bitIdx (p : Pattern) (s : State) : (loadPattern p s).bitIdx = 7 := rfl
@[simp] theorem loadPattern_digIdx (p : Pattern) (s : State) : (loadPattern p s).digIdx = s.digIdx := rfl
@[simp] theorem loadPattern_mag (p : Pattern) (s : State) : (loadPattern p s).mag = s.mag := rfl
@[simp] theorem loadPattern_pending (p : Pattern) (s : State) : (loadPattern p s).pending = s.pending := rfl
@[simp] theorem loadPattern_faults (p : Pattern) (s : State) : (loadPattern p s).faults = s.faults := rfl
@[simp] theorem loadPattern_accepted (p : Pattern) (s : State) : (loadPattern p s).accepted = s.accepted := rfl
@[simp] theorem loadPattern_storage (p : Pattern) (s : State) : (loadPattern p s).storage = s.storage := rfl
@[simp] theorem loadPattern_output (p : Pattern) (s : State) : (loadPattern p s).output = s.output := rfl
@[simp] theorem loadPattern_segPos (p : Pattern) (s : State) : (loadPattern p s).segPos = s.segPos := rfl
@[simp] theorem loadPattern_host (p : Pattern) (s : State) : (loadPattern p s).host = s.host := rfl
@[simp] theorem loadPattern_pauseAfter (p : Pattern) (s : State) : (loadPattern p s).pauseAfter = s.pauseAfter := rfl
@[simp] theorem loadPattern_freeCount (p : Pattern) (s : State) : (loadPattern p s).freeCount = s.freeCount := rfl

/-! `countShift`. -/

@[simp] theorem countShift_clk (s : State) : (countShift s).clk = s.clk := rfl
@[simp] theorem countShift_dat (s : State) : (countShift s).dat = s.dat := rfl
@[simp] theorem countShift_lat (s : State) : (countShift s).lat = s.lat := rfl
@[simp] theorem countShift_rst (s : State) : (countShift s).rst = s.rst := rfl
@[simp] theorem countShift_cmd (s : State) : (countShift s).cmd = s.cmd := rfl
@[simp] theorem countShift_cmdValid (s : State) : (countShift s).cmdValid = s.cmdValid := rfl
@[simp] theorem countShift_encCode (s : State) : (countShift s).encCode = s.encCode := rfl
@[simp] theorem countShift_encDp (s : State) : (countShift s).encDp = s.encDp := rfl
@[simp] theorem countShift_phase (s : State) : (countShift s).phase = s.phase := rfl
@[simp] theorem countShift_sr (s : State) : (countShift s).sr = s.sr := rfl
@[simp] theorem countShift_bitIdx (s : State) : (countShift s).bitIdx = s.bitIdx := rfl
@[simp] theorem countShift_digIdx (s : State) : (countShift s).digIdx = s.digIdx := rfl
@[simp] theorem countShift_mag (s : State) : (countShift s).mag = s.mag := rfl
@[simp] theorem countShift_pending (s : State) : (countShift s).pending = s.pending + 1 := rfl
@[simp] theorem countShift_faults (s : State) : (countShift s).faults = s.faults := rfl
@[simp] theorem countShift_accepted (s : State) : (countShift s).accepted = s.accepted := rfl
@[simp] theorem countShift_storage (s : State) : (countShift s).storage = s.storage := rfl
@[simp] theorem countShift_output (s : State) : (countShift s).output = s.output := rfl
@[simp] theorem countShift_segPos (s : State) : (countShift s).segPos = s.segPos := rfl
@[simp] theorem countShift_host (s : State) : (countShift s).host = s.host := rfl
@[simp] theorem countShift_pauseAfter (s : State) : (countShift s).pauseAfter = s.pauseAfter := rfl
@[simp] theorem countShift_freeCount (s : State) : (countShift s).freeCount = s.freeCount := rfl

/-! `toIdle`. -/

@[simp] theorem toIdle_clk (s : State) : (toIdle s).clk = s.clk := rfl
@[simp] theorem toIdle_dat (s : State) : (toIdle s).dat = s.dat := rfl
@[simp] theorem toIdle_lat (s : State) : (toIdle s).lat = s.lat := rfl
@[simp] theorem toIdle_rst (s : State) : (toIdle s).rst = s.rst := rfl
@[simp] theorem toIdle_cmd (s : State) : (toIdle s).cmd = s.cmd := rfl
@[simp] theorem toIdle_cmdValid (s : State) : (toIdle s).cmdValid = s.cmdValid := rfl
@[simp] theorem toIdle_encCode (s : State) : (toIdle s).encCode = s.encCode := rfl
@[simp] theorem toIdle_encDp (s : State) : (toIdle s).encDp = s.encDp := rfl
@[simp] theorem toIdle_phase (s : State) : (toIdle s).phase = .idle := rfl
@[simp] theorem toIdle_sr (s : State) : (toIdle s).sr = s.sr := rfl
@[simp] theorem toIdle_bitIdx (s : State) : (toIdle s).bitIdx = s.bitIdx := rfl
@[simp] theorem toIdle_digIdx (s : State) : (toIdle s).digIdx = s.digIdx := rfl
@[simp] theorem toIdle_mag (s : State) : (toIdle s).mag = s.mag := rfl
@[simp] theorem toIdle_pending (s : State) : (toIdle s).pending = s.pending := rfl
@[simp] theorem toIdle_faults (s : State) : (toIdle s).faults = s.faults := rfl
@[simp] theorem toIdle_accepted (s : State) : (toIdle s).accepted = s.accepted := rfl
@[simp] theorem toIdle_storage (s : State) : (toIdle s).storage = s.storage := rfl
@[simp] theorem toIdle_output (s : State) : (toIdle s).output = s.output := rfl
@[simp] theorem toIdle_segPos (s : State) : (toIdle s).segPos = s.segPos := rfl
@[simp] theorem toIdle_host (s : State) : (toIdle s).host = s.host := rfl
@[simp] theorem toIdle_pauseAfter (s : State) : (toIdle s).pauseAfter = s.pauseAfter := rfl
@[simp] theorem toIdle_freeCount (s : State) : (toIdle s).freeCount = s.freeCount := rfl

/-! `divideMag`. -/

@[simp] theorem divideMag_clk (s : State) : (divideMag s).clk = s.clk := rfl
@[simp] theorem divideMag_dat (s : State) : (divideMag s).dat = s.dat := rfl
@[simp] theorem divideMag_lat (s : State) : (divideMag s).lat = s.lat := rfl
@[simp] theorem divideMag_rst (s : State) : (divideMag s).rst = s.rst := rfl
@[simp] theorem divideMag_cmd (s : State) : (divideMag s).cmd = s.cmd := rfl
@[simp] theorem divideMag_cmdValid (s : State) : (divideMag s).cmdValid = s.cmdValid := rfl
@[simp] theorem divideMag_encCode (s : State) : (divideMag s).encCode = s.encCode := rfl
@[simp] theorem divideMag_encDp (s : State) : (divideMag s).encDp = s.encDp := rfl
@[simp] theorem divideMag_phase (s : State) : (divideMag s).phase = s.phase := rfl
@[simp] theorem divideMag_sr (s : State) : (divideMag s).sr = s.sr := rfl
@[simp] theorem divideMag_bitIdx (s : State) : (divideMag s).bitIdx = s.bitIdx := rfl
@[simp] theorem divideMag_digIdx (s : State) : (divideMag s).digIdx = s.digIdx := rfl
@[simp] theorem divideMag_mag (s : State) : (divideMag s).mag = divTen s.mag := rfl
@[simp] theorem divideMag_pending (s : State) : (divideMag s).pending = s.pending := rfl
@[simp] theorem divideMag_faults (s : State) : (divideMag s).faults = s.faults := rfl
@[simp] theorem divideMag_accepted (s : State) : (divideMag s).accepted = s.accepted := rfl
@[simp] theorem divideMag_storage (s : State) : (divideMag s).storage = s.storage := rfl
@[simp] theorem divideMag_output (s : State) : (divideMag s).output = s.output := rfl
@[simp] theorem divideMag_segPos (s : State) : (divideMag s).segPos = s.segPos := rfl
@[simp] theorem divideMag_host (s : State) : (divideMag s).host = s.host := rfl
@[simp] theorem divideMag_pauseAfter (s : State) : (divideMag s).pauseAfter = s.pauseAfter := rfl
@[simp] theorem divideMag_freeCount (s : State) : (divideMag s).freeCount = s.freeCount := rfl

/-! `recordFault`. -/

@[simp] theorem recordFault_clk (k : FaultKind) (n : Nat) (s : State) : (recordFault k n s).clk = s.clk := rfl
@[simp] theorem recordFault_dat (k : FaultKind) (n : Nat) (s : State) : (recordFault k n s).dat = s.dat := rfl
@[simp] theorem recordFault_lat (k : FaultKind) (n : Nat) (s : State) : (recordFault k n s).lat = s.lat := rfl
@[simp] theorem recordFault_rst (k : FaultKind) (n : Nat) (s : State) : (recordFault k n s).rst = s.rst := rfl
@[simp] theorem recordFault_cmd (k : FaultKind) (n : Nat) (s : State) : (recordFault k n s).cmd = s.cmd := rfl
@[simp] theorem recordFault_cmdValid (k : FaultKind) (n : Nat) (s : State) :
    (recordFault k n s).cmdValid = s.cmdValid := rfl
@[simp] theorem recordFault_encCode (k : FaultKind) (n : Nat) (s : State) :
    (recordFault k n s).encCode = s.encCode := rfl
@[simp] theorem recordFault_encDp (k : FaultKind) (n : Nat) (s : State) : (recordFault k n s).encDp = s.encDp := rfl
@[simp] theorem recordFault_phase (k : FaultKind) (n : Nat) (s : State) : (recordFault k n s).phase = s.phase := rfl
@[simp] theorem recordFault_sr (k : FaultKind) (n : Nat) (s : State) : (recordFault k n s).sr = s.sr := rfl
@[simp] theorem recordFault_bitIdx (k : FaultKind) (n : Nat) (s : State) : (recordFault k n s).bitIdx = s.bitIdx := rfl
@[simp] theorem recordFault_digIdx (k : FaultKind) (n : Nat) (s : State) : (recordFault k n s).digIdx = s.digIdx := rfl
@[simp] theorem recordFault_mag (k : FaultKind) (n : Nat) (s : State) : (recordFault k n s).mag = s.mag := rfl
@[simp] theorem recordFault_pending (k : FaultKind) (n : Nat) (s : State) :
    (recordFault k n s).pending = s.pending := rfl
@[simp] theorem recordFault_faults (k : FaultKind) (n : Nat) (s : State) :
    (recordFault k n s).faults = s.faults ++ [⟨k, n, s.accepted⟩] := rfl
@[simp] theorem recordFault_accepted (k : FaultKind) (n : Nat) (s : State) :
    (recordFault k n s).accepted = s.accepted := rfl
@[simp] theorem recordFault_storage (k : FaultKind) (n : Nat) (s : State) :
    (recordFault k n s).storage = s.storage := rfl
@[simp] theorem recordFault_output (k : FaultKind) (n : Nat) (s : State) : (recordFault k n s).output = s.output := rfl
@[simp] theorem recordFault_segPos (k : FaultKind) (n : Nat) (s : State) : (recordFault k n s).segPos = s.segPos := rfl
@[simp] theorem recordFault_host (k : FaultKind) (n : Nat) (s : State) : (recordFault k n s).host = s.host := rfl
@[simp] theorem recordFault_pauseAfter (k : FaultKind) (n : Nat) (s : State) :
    (recordFault k n s).pauseAfter = s.pauseAfter := rfl
@[simp] theorem recordFault_freeCount (k : FaultKind) (n : Nat) (s : State) :
    (recordFault k n s).freeCount = s.freeCount := rfl

/-! `clearPending`. -/

@[simp] theorem clearPending_clk (s : State) : (clearPending s).clk = s.clk := rfl
@[simp] theorem clearPending_dat (s : State) : (clearPending s).dat = s.dat := rfl
@[simp] theorem clearPending_lat (s : State) : (clearPending s).lat = s.lat := rfl
@[simp] theorem clearPending_rst (s : State) : (clearPending s).rst = s.rst := rfl
@[simp] theorem clearPending_cmd (s : State) : (clearPending s).cmd = s.cmd := rfl
@[simp] theorem clearPending_cmdValid (s : State) : (clearPending s).cmdValid = s.cmdValid := rfl
@[simp] theorem clearPending_encCode (s : State) : (clearPending s).encCode = s.encCode := rfl
@[simp] theorem clearPending_encDp (s : State) : (clearPending s).encDp = s.encDp := rfl
@[simp] theorem clearPending_phase (s : State) : (clearPending s).phase = s.phase := rfl
@[simp] theorem clearPending_sr (s : State) : (clearPending s).sr = s.sr := rfl
@[simp] theorem clearPending_bitIdx (s : State) : (clearPending s).bitIdx = s.bitIdx := rfl
@[simp] theorem clearPending_digIdx (s : State) : (clearPending s).digIdx = s.digIdx := rfl
@[simp] theorem clearPending_mag (s : State) : (clearPending s).mag = s.mag := rfl
@[simp] theorem clearPending_pending (s : State) : (clearPending s).pending = 0 := rfl
@[simp] theorem clearPending_faults (s : State) : (clearPending s).faults = s.faults := rfl
@[simp] theorem clearPending_accepted (s : State) : (clearPending s).accepted = s.accepted := rfl
@[simp] theorem clearPending_storage (s : State) : (clearPending s).storage = s.storage := rfl
@[simp] theorem clearPending_output (s : State) : (clearPending s).output = s.output := rfl
@[simp] theorem clearPending_segPos (s : State) : (clearPending s).segPos = s.segPos := rfl
@[simp] theorem clearPending_host (s : State) : (clearPending s).host = s.host := rfl
@[simp] theorem clearPending_pauseAfter (s : State) : (clearPending s).pauseAfter = s.pauseAfter := rfl
@[simp] theorem clearPending_freeCount (s : State) : (clearPending s).freeCount = s.freeCount := rfl

/-! `accept`. -/

@[simp] theorem accept_clk (s : State) : (s.accept).clk = s.clk := rfl
@[simp] theorem accept_dat (s : State) : (s.accept).dat = s.dat := rfl
@[simp] theorem accept_lat (s : State) : (s.accept).lat = s.lat := rfl
@[simp] theorem accept_rst (s : State) : (s.accept).rst = s.rst := rfl
@[simp] theorem accept_cmd (s : State) : (s.accept).cmd = s.cmd := rfl
@[simp] theorem accept_cmdValid (s : State) : (s.accept).cmdValid = false := rfl
@[simp] theorem accept_encCode (s : State) : (s.accept).encCode = s.encCode := rfl
@[simp] theorem accept_encDp (s : State) : (s.accept).encDp = s.encDp := rfl
@[simp] theorem accept_phase (s : State) : (s.accept).phase = s.phase := rfl
@[simp] theorem accept_sr (s : State) : (s.accept).sr = s.sr := rfl
@[simp] theorem accept_bitIdx (s : State) : (s.accept).bitIdx = s.bitIdx := rfl
@[simp] theorem accept_digIdx (s : State) : (s.accept).digIdx = s.digIdx := rfl
@[simp] theorem accept_mag (s : State) : (s.accept).mag = s.mag := rfl
@[simp] theorem accept_pending (s : State) : (s.accept).pending = s.pending := rfl
@[simp] theorem accept_faults (s : State) : (s.accept).faults = s.faults := rfl
@[simp] theorem accept_accepted (s : State) : (s.accept).accepted = s.accepted + 1 := rfl
@[simp] theorem accept_storage (s : State) : (s.accept).storage = s.storage := rfl
@[simp] theorem accept_output (s : State) : (s.accept).output = s.output := rfl
@[simp] theorem accept_segPos (s : State) : (s.accept).segPos = s.segPos := rfl
@[simp] theorem accept_host (s : State) : (s.accept).host = s.host := rfl
@[simp] theorem accept_pauseAfter (s : State) : (s.accept).pauseAfter = none := rfl
@[simp] theorem accept_freeCount (s : State) : (s.accept).freeCount = s.freeCount := rfl

/-! `forgetRegisters`. -/

@[simp] theorem forgetRegisters_clk (s : State) : (forgetRegisters s).clk = s.clk := rfl
@[simp] theorem forgetRegisters_dat (s : State) : (forgetRegisters s).dat = s.dat := rfl
@[simp] theorem forgetRegisters_lat (s : State) : (forgetRegisters s).lat = s.lat := rfl
@[simp] theorem forgetRegisters_rst (s : State) : (forgetRegisters s).rst = s.rst := rfl
@[simp] theorem forgetRegisters_cmd (s : State) : (forgetRegisters s).cmd = s.cmd := rfl
@[simp] theorem forgetRegisters_cmdValid (s : State) : (forgetRegisters s).cmdValid = s.cmdValid := rfl
@[simp] theorem forgetRegisters_encCode (s : State) : (forgetRegisters s).encCode = s.encCode := rfl
@[simp] theorem forgetRegisters_encDp (s : State) : (forgetRegisters s).encDp = s.encDp := rfl
@[simp] theorem forgetRegisters_phase (s : State) : (forgetRegisters s).phase = s.phase := rfl
@[simp] theorem forgetRegisters_sr (s : State) : (forgetRegisters s).sr = Config.freeSr s.freeCount := rfl
@[simp] theorem forgetRegisters_bitIdx (s : State) : (forgetRegisters s).bitIdx = Config.freeBitIdx s.freeCount := rfl
@[simp] theorem forgetRegisters_digIdx (s : State) : (forgetRegisters s).digIdx = Config.freeDigIdx s.freeCount := rfl
@[simp] theorem forgetRegisters_mag (s : State) : (forgetRegisters s).mag = Config.freeMag s.freeCount := rfl
@[simp] theorem forgetRegisters_pending (s : State) : (forgetRegisters s).pending = s.pending := rfl
@[simp] theorem forgetRegisters_faults (s : State) : (forgetRegisters s).faults = s.faults := rfl
@[simp] theorem forgetRegisters_accepted (s : State) : (forgetRegisters s).accepted = s.accepted := rfl
@[simp] theorem forgetRegisters_storage (s : State) : (forgetRegisters s).storage = s.storage := rfl
@[simp] theorem forgetRegisters_output (s : State) : (forgetRegisters s).output = s.output := rfl
@[simp] theorem forgetRegisters_segPos (s : State) : (forgetRegisters s).segPos = s.segPos := rfl
@[simp] theorem forgetRegisters_host (s : State) : (forgetRegisters s).host = s.host := rfl
@[simp] theorem forgetRegisters_pauseAfter (s : State) : (forgetRegisters s).pauseAfter = s.pauseAfter := rfl
@[simp] theorem forgetRegisters_freeCount (s : State) : (forgetRegisters s).freeCount = s.freeCount + 1 := rfl

/-! `withFetchWord`. -/

@[simp] theorem withFetchWord_clk (s : State) (nbits w : Nat) : (s.withFetchWord nbits w).clk = s.clk := rfl
@[simp] theorem withFetchWord_dat (s : State) (nbits w : Nat) : (s.withFetchWord nbits w).dat = s.dat := rfl
@[simp] theorem withFetchWord_lat (s : State) (nbits w : Nat) : (s.withFetchWord nbits w).lat = s.lat := rfl
@[simp] theorem withFetchWord_rst (s : State) (nbits w : Nat) : (s.withFetchWord nbits w).rst = false := rfl
@[simp] theorem withFetchWord_cmd (s : State) (nbits w : Nat) :
    (s.withFetchWord nbits w).cmd = BitVec.ofNat 32 (w % 2 ^ nbits) := rfl
@[simp] theorem withFetchWord_cmdValid (s : State) (nbits w : Nat) : (s.withFetchWord nbits w).cmdValid = true := rfl
@[simp] theorem withFetchWord_encCode (s : State) (nbits w : Nat) : (s.withFetchWord nbits w).encCode = s.encCode := rfl
@[simp] theorem withFetchWord_encDp (s : State) (nbits w : Nat) : (s.withFetchWord nbits w).encDp = s.encDp := rfl
@[simp] theorem withFetchWord_phase (s : State) (nbits w : Nat) : (s.withFetchWord nbits w).phase = .idle := rfl
@[simp] theorem withFetchWord_sr (s : State) (nbits w : Nat) : (s.withFetchWord nbits w).sr = s.sr := rfl
@[simp] theorem withFetchWord_bitIdx (s : State) (nbits w : Nat) : (s.withFetchWord nbits w).bitIdx = s.bitIdx := rfl
@[simp] theorem withFetchWord_digIdx (s : State) (nbits w : Nat) : (s.withFetchWord nbits w).digIdx = s.digIdx := rfl
@[simp] theorem withFetchWord_mag (s : State) (nbits w : Nat) : (s.withFetchWord nbits w).mag = s.mag := rfl
@[simp] theorem withFetchWord_pending (s : State) (nbits w : Nat) : (s.withFetchWord nbits w).pending = s.pending := rfl
@[simp] theorem withFetchWord_faults (s : State) (nbits w : Nat) : (s.withFetchWord nbits w).faults = s.faults := rfl
@[simp] theorem withFetchWord_accepted (s : State) (nbits w : Nat) :
    (s.withFetchWord nbits w).accepted = s.accepted := rfl
@[simp] theorem withFetchWord_storage (s : State) (nbits w : Nat) : (s.withFetchWord nbits w).storage = s.storage := rfl
@[simp] theorem withFetchWord_output (s : State) (nbits w : Nat) : (s.withFetchWord nbits w).output = s.output := rfl
@[simp] theorem withFetchWord_segPos (s : State) (nbits w : Nat) : (s.withFetchWord nbits w).segPos = s.segPos := rfl
@[simp] theorem withFetchWord_host (s : State) (nbits w : Nat) : (s.withFetchWord nbits w).host = s.host := rfl
@[simp] theorem withFetchWord_pauseAfter (s : State) (nbits w : Nat) :
    (s.withFetchWord nbits w).pauseAfter = none := rfl
@[simp] theorem withFetchWord_freeCount (s : State) (nbits w : Nat) :
    (s.withFetchWord nbits w).freeCount = s.freeCount := rfl

/-! `setLevel`: a line's own level, and everything else. -/

@[simp] theorem setLevel_clk_clk (v : Bool) (s : State) : (s.setLevel .clk v).clk = v := rfl
@[simp] theorem setLevel_clk_dat (v : Bool) (s : State) : (s.setLevel .clk v).dat = s.dat := rfl
@[simp] theorem setLevel_clk_lat (v : Bool) (s : State) : (s.setLevel .clk v).lat = s.lat := rfl
@[simp] theorem setLevel_clk_rst (v : Bool) (s : State) : (s.setLevel .clk v).rst = s.rst := rfl
@[simp] theorem setLevel_clk_cmd (v : Bool) (s : State) : (s.setLevel .clk v).cmd = s.cmd := rfl
@[simp] theorem setLevel_clk_cmdValid (v : Bool) (s : State) : (s.setLevel .clk v).cmdValid = s.cmdValid := rfl
@[simp] theorem setLevel_clk_encCode (v : Bool) (s : State) : (s.setLevel .clk v).encCode = s.encCode := rfl
@[simp] theorem setLevel_clk_encDp (v : Bool) (s : State) : (s.setLevel .clk v).encDp = s.encDp := rfl
@[simp] theorem setLevel_clk_phase (v : Bool) (s : State) : (s.setLevel .clk v).phase = s.phase := rfl
@[simp] theorem setLevel_clk_sr (v : Bool) (s : State) : (s.setLevel .clk v).sr = s.sr := rfl
@[simp] theorem setLevel_clk_bitIdx (v : Bool) (s : State) : (s.setLevel .clk v).bitIdx = s.bitIdx := rfl
@[simp] theorem setLevel_clk_digIdx (v : Bool) (s : State) : (s.setLevel .clk v).digIdx = s.digIdx := rfl
@[simp] theorem setLevel_clk_mag (v : Bool) (s : State) : (s.setLevel .clk v).mag = s.mag := rfl
@[simp] theorem setLevel_clk_pending (v : Bool) (s : State) : (s.setLevel .clk v).pending = s.pending := rfl
@[simp] theorem setLevel_clk_faults (v : Bool) (s : State) : (s.setLevel .clk v).faults = s.faults := rfl
@[simp] theorem setLevel_clk_accepted (v : Bool) (s : State) : (s.setLevel .clk v).accepted = s.accepted := rfl
@[simp] theorem setLevel_clk_storage (v : Bool) (s : State) : (s.setLevel .clk v).storage = s.storage := rfl
@[simp] theorem setLevel_clk_output (v : Bool) (s : State) : (s.setLevel .clk v).output = s.output := rfl
@[simp] theorem setLevel_clk_segPos (v : Bool) (s : State) : (s.setLevel .clk v).segPos = s.segPos := rfl
@[simp] theorem setLevel_clk_host (v : Bool) (s : State) : (s.setLevel .clk v).host = s.host := rfl
@[simp] theorem setLevel_clk_pauseAfter (v : Bool) (s : State) : (s.setLevel .clk v).pauseAfter = s.pauseAfter := rfl
@[simp] theorem setLevel_clk_freeCount (v : Bool) (s : State) : (s.setLevel .clk v).freeCount = s.freeCount := rfl

@[simp] theorem setLevel_dat_clk (v : Bool) (s : State) : (s.setLevel .dat v).clk = s.clk := rfl
@[simp] theorem setLevel_dat_dat (v : Bool) (s : State) : (s.setLevel .dat v).dat = v := rfl
@[simp] theorem setLevel_dat_lat (v : Bool) (s : State) : (s.setLevel .dat v).lat = s.lat := rfl
@[simp] theorem setLevel_dat_rst (v : Bool) (s : State) : (s.setLevel .dat v).rst = s.rst := rfl
@[simp] theorem setLevel_dat_cmd (v : Bool) (s : State) : (s.setLevel .dat v).cmd = s.cmd := rfl
@[simp] theorem setLevel_dat_cmdValid (v : Bool) (s : State) : (s.setLevel .dat v).cmdValid = s.cmdValid := rfl
@[simp] theorem setLevel_dat_encCode (v : Bool) (s : State) : (s.setLevel .dat v).encCode = s.encCode := rfl
@[simp] theorem setLevel_dat_encDp (v : Bool) (s : State) : (s.setLevel .dat v).encDp = s.encDp := rfl
@[simp] theorem setLevel_dat_phase (v : Bool) (s : State) : (s.setLevel .dat v).phase = s.phase := rfl
@[simp] theorem setLevel_dat_sr (v : Bool) (s : State) : (s.setLevel .dat v).sr = s.sr := rfl
@[simp] theorem setLevel_dat_bitIdx (v : Bool) (s : State) : (s.setLevel .dat v).bitIdx = s.bitIdx := rfl
@[simp] theorem setLevel_dat_digIdx (v : Bool) (s : State) : (s.setLevel .dat v).digIdx = s.digIdx := rfl
@[simp] theorem setLevel_dat_mag (v : Bool) (s : State) : (s.setLevel .dat v).mag = s.mag := rfl
@[simp] theorem setLevel_dat_pending (v : Bool) (s : State) : (s.setLevel .dat v).pending = s.pending := rfl
@[simp] theorem setLevel_dat_faults (v : Bool) (s : State) : (s.setLevel .dat v).faults = s.faults := rfl
@[simp] theorem setLevel_dat_accepted (v : Bool) (s : State) : (s.setLevel .dat v).accepted = s.accepted := rfl
@[simp] theorem setLevel_dat_storage (v : Bool) (s : State) : (s.setLevel .dat v).storage = s.storage := rfl
@[simp] theorem setLevel_dat_output (v : Bool) (s : State) : (s.setLevel .dat v).output = s.output := rfl
@[simp] theorem setLevel_dat_segPos (v : Bool) (s : State) : (s.setLevel .dat v).segPos = s.segPos := rfl
@[simp] theorem setLevel_dat_host (v : Bool) (s : State) : (s.setLevel .dat v).host = s.host := rfl
@[simp] theorem setLevel_dat_pauseAfter (v : Bool) (s : State) : (s.setLevel .dat v).pauseAfter = s.pauseAfter := rfl
@[simp] theorem setLevel_dat_freeCount (v : Bool) (s : State) : (s.setLevel .dat v).freeCount = s.freeCount := rfl

@[simp] theorem setLevel_lat_clk (v : Bool) (s : State) : (s.setLevel .lat v).clk = s.clk := rfl
@[simp] theorem setLevel_lat_dat (v : Bool) (s : State) : (s.setLevel .lat v).dat = s.dat := rfl
@[simp] theorem setLevel_lat_lat (v : Bool) (s : State) : (s.setLevel .lat v).lat = v := rfl
@[simp] theorem setLevel_lat_rst (v : Bool) (s : State) : (s.setLevel .lat v).rst = s.rst := rfl
@[simp] theorem setLevel_lat_cmd (v : Bool) (s : State) : (s.setLevel .lat v).cmd = s.cmd := rfl
@[simp] theorem setLevel_lat_cmdValid (v : Bool) (s : State) : (s.setLevel .lat v).cmdValid = s.cmdValid := rfl
@[simp] theorem setLevel_lat_encCode (v : Bool) (s : State) : (s.setLevel .lat v).encCode = s.encCode := rfl
@[simp] theorem setLevel_lat_encDp (v : Bool) (s : State) : (s.setLevel .lat v).encDp = s.encDp := rfl
@[simp] theorem setLevel_lat_phase (v : Bool) (s : State) : (s.setLevel .lat v).phase = s.phase := rfl
@[simp] theorem setLevel_lat_sr (v : Bool) (s : State) : (s.setLevel .lat v).sr = s.sr := rfl
@[simp] theorem setLevel_lat_bitIdx (v : Bool) (s : State) : (s.setLevel .lat v).bitIdx = s.bitIdx := rfl
@[simp] theorem setLevel_lat_digIdx (v : Bool) (s : State) : (s.setLevel .lat v).digIdx = s.digIdx := rfl
@[simp] theorem setLevel_lat_mag (v : Bool) (s : State) : (s.setLevel .lat v).mag = s.mag := rfl
@[simp] theorem setLevel_lat_pending (v : Bool) (s : State) : (s.setLevel .lat v).pending = s.pending := rfl
@[simp] theorem setLevel_lat_faults (v : Bool) (s : State) : (s.setLevel .lat v).faults = s.faults := rfl
@[simp] theorem setLevel_lat_accepted (v : Bool) (s : State) : (s.setLevel .lat v).accepted = s.accepted := rfl
@[simp] theorem setLevel_lat_storage (v : Bool) (s : State) : (s.setLevel .lat v).storage = s.storage := rfl
@[simp] theorem setLevel_lat_output (v : Bool) (s : State) : (s.setLevel .lat v).output = s.output := rfl
@[simp] theorem setLevel_lat_segPos (v : Bool) (s : State) : (s.setLevel .lat v).segPos = s.segPos := rfl
@[simp] theorem setLevel_lat_host (v : Bool) (s : State) : (s.setLevel .lat v).host = s.host := rfl
@[simp] theorem setLevel_lat_pauseAfter (v : Bool) (s : State) : (s.setLevel .lat v).pauseAfter = s.pauseAfter := rfl
@[simp] theorem setLevel_lat_freeCount (v : Bool) (s : State) : (s.setLevel .lat v).freeCount = s.freeCount := rfl

end Sys2Proof.Machine
end

