-- ==== Sys2Proof/Laws/Ops.lean ====
section
/-! SUPPORT. For each shared operation, one lemma that says everything it does to the state. -/

namespace Sys2Proof.Machine

open Sys2Proof.Safety

/-! Events. -/

theorem drive_dat (b : Bool) (s : State) : drive .dat b s = { s with dat := b } := by
  simp [drive, State.setLevel]

theorem drive_low (l : Line) (s : State) : drive l false s = s.setLevel l false := by
  simp [drive]

theorem pulse_clk (s : State) :
    pulse .clk s = { s with clk := true, storage := shiftIn (some s.dat) s.storage } := by
  simp [pulse, drive, State.level, State.setLevel, clkRise]

theorem pulse_lat (s : State) : pulse .lat s = { s with lat := true, output := s.storage } := by
  simp [pulse, drive, State.level, State.setLevel, latRise]

theorem shiftBit_eq (b : Bool) (s : State) :
    shiftBit b s = { s with dat := b, clk := true, storage := shiftIn (some b) s.storage } := by
  simp [shiftBit, drive_dat, pulse_clk]

/-- An event sets its line; it changes S only as a CLK rise does and O only as a LAT rise does. -/
theorem applyEvent_cases (e : Event) (s : State) :
    (e = ⟨.clk, true⟩ ∧ s.clk = false ∧
      applyEvent e s = { s with clk := true, storage := shiftIn (some s.dat) s.storage }) ∨
    (e = ⟨.lat, true⟩ ∧ s.lat = false ∧ applyEvent e s = { s with lat := true, output := s.storage }) ∨
    applyEvent e s = s.setLevel e.line e.level := by
  obtain ⟨l, v⟩ := e
  cases l <;> cases v <;> simp [applyEvent, drive, State.level]
  · cases h : s.clk <;> simp [clkRise, State.setLevel]
  · cases h : s.lat <;> simp [latRise, State.setLevel]

/-! Stage arrays. -/

@[simp] theorem getElem_shiftIn (b : ChainBit) (v : ChainBits) (i : Nat) (h : i < 32) :
    (shiftIn b v)[i] = if i = 0 then b else v[i - 1] := by
  simp [shiftIn]

@[simp] theorem getElem_pushed (p : Pattern) (v : ChainBits) (i : Nat) (h : i < 32) :
    (pushed p v)[i] = if i < 8 then some (p.getLsbD i) else v[i - 8] := by
  simp [pushed]

@[simp] theorem getElem_image (c0 c1 c2 c3 : Pattern) (i : Nat) (h : i < 32) :
    (image c0 c1 c2 c3)[i] =
      some ((if i < 8 then c0 else if i < 16 then c1 else if i < 24 then c2 else c3).getLsbD (i % 8)) := by
  simp [image]

@[simp] theorem getElem_unknown (i : Nat) (h : i < 32) : ChainBits.unknown[i] = none := by
  simp [ChainBits.unknown]

/-- Four patterns pushed one after the other fill the array, whatever it held. -/
theorem pushed_four (q0 q1 q2 q3 : Pattern) (v : ChainBits) :
    pushed q3 (pushed q2 (pushed q1 (pushed q0 v))) = image q3 q2 q1 q0 := by
  ext1 i h
  simp only [getElem_pushed, getElem_image]
  by_cases h1 : i < 8
  · simp [h1, Nat.mod_eq_of_lt h1]
  by_cases h2 : i < 16
  · simp [h1, h2, show i - 8 < 8 by omega, show i % 8 = i - 8 by omega]
  by_cases h3 : i < 24
  · simp [h1, h2, h3, show ¬ i - 8 < 8 by omega, show i - 8 - 8 < 8 by omega, show i % 8 = i - 8 - 8 by omega]
  · simp [h1, h2, h3, show ¬ i - 8 < 8 by omega, show ¬ i - 8 - 8 < 8 by omega,
      show i - 8 - 8 - 8 < 8 by omega, show i % 8 = i - 8 - 8 - 8 by omega]

/-! SHIFT_DIGIT and LATCH_PULSE. -/

/-- The bits of SR from n-1 down, shifted into the chain. -/
theorem shiftBits_storage (n : Nat) (hn : n ≤ 8) (s : State) (i : Nat) (h : i < 32) :
    (shiftBits n s).storage[i] = if i < n then some (s.sr.getLsbD i) else s.storage[i - n] := by
  induction n generalizing s i with
  | zero => simp [shiftBits]
  | succ n ih =>
    have hb : (BitVec.ofNat 3 n).toNat = n := by simp; omega
    simp only [shiftBits, shiftBit_eq, State.currentBit, hb]
    rw [ih (by omega)]
    simp only [getElem_shiftIn]
    by_cases h1 : i < n
    · simp [h1, show i < n + 1 by omega]
    · by_cases h2 : i = n
      · subst h2; simp
      · simp [h1, show ¬ i < n + 1 by omega, show i - n ≠ 0 by omega, Nat.sub_sub]

/-- SHIFT_DIGIT (41_display_driver.md R133) as one update. -/
theorem shiftDigit_eq (p : Pattern) (s : State) :
    shiftDigit p s =
      { s with
        sr := p, bitIdx := 0, clk := true, dat := p.getLsbD 0, pending := s.pending + 1,
        storage := pushed p s.storage } := by
  have hs : (shiftBits 8 (loadPattern p s)).storage = pushed p s.storage := by
    ext1 i h
    simp [shiftBits_storage 8 (by omega) _ i h]
  simp only [shiftDigit, countShift, ← hs]
  simp [shiftBits, shiftBit_eq, State.currentBit]

/-- LATCH_PULSE (41_display_driver.md R134) as one update. -/
theorem latchPulse_eq (s : State) :
    latchPulse s =
      { s with
        lat := true, output := s.storage, pending := 0,
        faults := if s.pending = 4 then s.faults else s.faults ++ [⟨.latchCount, s.pending, s.accepted⟩] } := by
  unfold latchPulse checkLatch
  split <;> simp [pulse_lat, clearPending, recordFault, *]

/-- The lines after the reset's three Drive events: LOW, and nothing else changed (70_reset_and_hazards.md R221). -/
theorem linesLow_eq (s : State) : linesLow s = { s with clk := false, dat := false, lat := false } := by
  simp [linesLow, drive_low, State.setLevel]

/-- One digit of RENDER as one update. -/
theorem renderDigit_eq (k : Nat) (s : State) :
    renderDigit k s =
      { s with
        digIdx := BitVec.ofNat 2 k, sr := s.unitsPattern, bitIdx := 0, clk := true,
        dat := s.unitsPattern.getLsbD 0, pending := s.pending + 1,
        storage := pushed s.unitsPattern s.storage, mag := divTen s.mag } := by
  simp [renderDigit, shiftDigit_eq, divideMag, State.unitsPattern]

/-! Acceptance and the environment. -/

/-- While IDLE an event step does nothing (10_state.md R23). -/
theorem tick_idle (s : State) (h : s.phase = .idle) : tick s = s := by
  simp [tick, beforeEvent, nextEvent, h]

theorem runEvents_idle (n : Nat) (s : State) (h : s.phase = .idle) : runEvents n s = s := by
  induction n with
  | zero => rfl
  | succ n ih => rw [runEvents, tick_idle s h, ih]

/-- Every meaning answers a next state (60_exceptions.md R200). -/
theorem exec_next (i : Instr) (s : State) : ∃ t, exec i s = .next t := by
  cases i <;> exact ⟨_, rfl⟩

/-- The block-only reset as one update. -/
theorem blockReset_eq (s : State) :
    blockReset s =
      { forgetRegisters s with
        clk := false, dat := false, lat := false, phase := .idle
        pending := 0, faults := [], accepted := 0, storage := ChainBits.unknown } := by
  unfold blockReset; rw [linesLow_eq]; rfl

/-- What a step does, said once. -/
theorem step_cases (s : State) :
    (s.rst = true ∧ (∀ m ∈ s.host.head?, m.canLand s = false) ∧ step s = .next (blockReset s)) ∨
    (s.rst = true ∧ ∃ m rest, s.host = m :: rest ∧ m.canLand s = true ∧
      step s = .next (m.land { blockReset s with host := rest })) ∨
    (s.rst = false ∧ s.accepts = true ∧ s.pauseAfter = none ∧ step s = exec s.offered s.accept) ∨
    (s.rst = false ∧ s.accepts = true ∧ ∃ n, s.pauseAfter = some n ∧
      step s = .next (runEvents n (beginCommand s.offered s.accept))) ∨
    (s.rst = false ∧ s.accepts = false ∧ (∃ m rest, s.host = m :: rest ∧ m.canLand s = true ∧
      step s = .next (m.land { s with host := rest }))) ∨
    (s.rst = false ∧ s.accepts = false ∧ (∀ m ∈ s.host.head?, m.canLand s = false) ∧ step s = .next (tick s)) := by
  unfold step acceptCommand proceed underReset
  have hc (m : HostMove) : m.canLand (blockReset s) = m.canLand s := by
    rw [blockReset_eq]; cases m <;> rfl
  have hb : (blockReset s).host = s.host := by rw [blockReset_eq]; rfl
  cases hr : s.rst <;> cases ha : s.accepts <;> cases hp : s.pauseAfter <;> simp [hb]
  all_goals
    cases hh : s.host with
    | nil => simp
    | cons m rest => cases hl : m.canLand s <;> simp [hl, hc]

end Sys2Proof.Machine
end

