-- ==== Sys2Proof/Laws/Chain.lean ====
section
/-! SUPPORT. Reading the bits of a cell as a number. -/

namespace Sys2Proof.Machine

/-- A list of bits has the value n exactly when n fits its length and every bit is known and n's. -/
theorem packBits_eq (bs : List ChainBit) (n : Nat) : packBits bs = some n ↔
    (n < 2 ^ bs.length ∧ ∀ i (h : i < bs.length), bs[i] = some (n.testBit i)) := by
  induction bs generalizing n with
  | nil => simp [packBits]; omega
  | cons b rest ih =>
    cases b with
    | none =>
      simp only [packBits, reduceCtorEq, false_iff, not_and]
      intro _ h; have := h 0 (by simp); simp at this
    | some b =>
      simp only [packBits, Option.map_eq_some_iff]
      constructor
      · rintro ⟨m, hm, rfl⟩
        obtain ⟨h1, h2⟩ := (ih m).mp hm
        refine ⟨?_, ?_⟩
        · simp only [List.length_cons, Nat.pow_succ]; cases b <;> simp <;> omega
        · intro i hi
          cases i with
          | zero => cases b <;> simp [Nat.testBit_zero]
          | succ i =>
            simp only [List.getElem_cons_succ, Nat.testBit_succ]
            rw [h2 i (by simpa using hi)]
            congr 2; cases b <;> simp <;> omega
      · rintro ⟨h1, h2⟩
        refine ⟨n / 2, (ih _).mpr ⟨?_, ?_⟩, ?_⟩
        · simp only [List.length_cons, Nat.pow_succ] at h1; omega
        · intro i hi
          have := h2 (i+1) (by simpa using hi)
          simpa [Nat.testBit_succ] using this
        · have := h2 0 (by simp)
          simp [Nat.testBit_zero] at this
          subst this
          by_cases hb : n % 2 = 1 <;> simp [hb] <;> omega

end Sys2Proof.Machine
end

