-- ==== Sys2Proof/Laws/Decode.lean ====
section
/-! SUPPORT. What the fields of an encoded command are, bit by bit. -/

namespace Sys2Proof

/-- The opcode field of an encoded command is its opcode. -/
theorem opcField_encode (i : Instr) : opcField (encode i) = opcode i := BitVec.extractLsb'_append_eq_left

/-- Each bit of an encoded command: OPND below bit 24, OPC from there on. -/
theorem getLsbD_encode (i : Instr) (j : Nat) :
    (encode i).getLsbD j = if j < 24 then (operandBits i).getLsbD j else (opcode i).getLsbD (j - 24) :=
  BitVec.getLsbD_append

/-- SHIFTP's operand bits are its pattern's, with zeros above. -/
theorem getLsbD_operandBits_shiftp (p : Pattern) (j : Nat) :
    (operandBits (.shiftp p)).getLsbD j = p.getLsbD j := by
  refine (BitVec.getLsbD_append (x := 0#16) (y := p)).trans ?_
  split
  · rfl
  · simp only [BitVec.getLsbD_zero, BitVec.getLsbD_of_ge p j (by omega)]

/-- SHIFTG's operand bits are its code's and, at bit 8, its decimal-point request. -/
theorem getLsbD_operandBits_shiftg (c : Code) (dp : Bool) (j : Nat) :
    (operandBits (.shiftg c dp)).getLsbD j = if j = 8 then dp else c.getLsbD j := by
  refine (BitVec.getLsbD_append (x := 0#15) (y := BitVec.ofBool dp ++ c)).trans ?_
  simp only [BitVec.getLsbD_append, BitVec.getLsbD_zero, BitVec.getLsbD_ofBool]
  by_cases h : j < 8
  · simp [h, show j ≠ 8 by omega, show j < 9 by omega]
  · by_cases h8 : j = 8
    · simp [h8]
    · simp [h8, show ¬ j < 9 by omega, BitVec.getLsbD_of_ge c j (by omega)]

/-- PAT of an encoded SHIFTP. -/
theorem patField_encode (p : Pattern) : patField (encode (.shiftp p)) = p := by
  apply BitVec.eq_of_getLsbD_eq
  intro j h
  simp only [patField, BitVec.getLsbD_extractLsb', getLsbD_encode, getLsbD_operandBits_shiftp, Nat.zero_add, h,
    show j < 24 by omega, decide_true, Bool.true_and, if_true]

/-- GCODE of an encoded SHIFTG. -/
theorem gcodeField_encode (c : Code) (dp : Bool) : gcodeField (encode (.shiftg c dp)) = c := by
  apply BitVec.eq_of_getLsbD_eq
  intro j h
  simp only [gcodeField, BitVec.getLsbD_extractLsb', getLsbD_encode, getLsbD_operandBits_shiftg, Nat.zero_add, h,
    show j < 24 by omega, show j ≠ 8 by omega, decide_true, Bool.true_and, if_true, if_false]

/-- DP of an encoded SHIFTG. -/
theorem dpField_encode (c : Code) (dp : Bool) : dpField (encode (.shiftg c dp)) = dp := by
  simp only [dpField, getLsbD_encode, getLsbD_operandBits_shiftg, show 8 < 24 by omega, if_true]

/-- MAG of an encoded RENDER. -/
theorem magField_encode (m : Magnitude) : magField (encode (.render m)) = m := BitVec.extractLsb'_append_eq_right

/-- The bits of the opcode field. -/
theorem getLsbD_opcField (w : Word) (j : Nat) : (opcField w).getLsbD j = w.getLsbD (24 + j) := by
  simp only [opcField, BitVec.getLsbD_extractLsb']
  by_cases h : j < 8
  · simp [h]
  · simp [h, BitVec.getLsbD_of_ge w (24+j) (by omega)]

end Sys2Proof
end

