-- ==== Sys2Proof/Laws/Memory.lean ====
section
/-! SUPPORT. The glyph ROM is a memory in canonical form, and reading it gives the table. There is no write to keep the
form. -/

namespace Sys2Proof.Machine

/-- A segment's bit is not zero. -/
theorem bitOf_ne_zero (p : SegPos) (s : Segment) : bitOf p s ≠ 0 := by
  have : ∀ i : Fin 8, (1#8 <<< i.val) ≠ 0 := by decide
  exact this _

/-- A pattern is blank only for the empty set. -/
theorem pat_cons_ne_zero (p : SegPos) (s : Segment) (rest : List Segment) : pat p (s :: rest) ≠ 0 := by
  intro h
  have h2 : bitOf p s ||| pat p rest = 0 := h
  exact bitOf_ne_zero p s (BitVec.or_eq_zero_iff.mp h2).1

/-- The cells of the ROM: the twelve glyphs that light a segment, in the order of their codes. -/
theorem glyphRom_eq (p : SegPos) :
    glyphRom p =
      [(0, pat p (litDigit 0)), (1, pat p (litDigit 1)), (2, pat p (litDigit 2)), (3, pat p (litDigit 3)),
       (4, pat p (litDigit 4)), (5, pat p (litDigit 5)), (6, pat p (litDigit 6)), (7, pat p (litDigit 7)),
       (8, pat p (litDigit 8)), (9, pat p (litDigit 9)), (45, pat p [.g]), (99, pat p [.d, .e, .g])] := by
  have h : ∀ s rest, (pat p (s :: rest) != Memory.unlisted) = true := fun s rest =>
    bne_iff_ne.mpr (pat_cons_ne_zero p s rest)
  have h0 : (pat p [] != Memory.unlisted) = false := rfl
  simp [glyphRom, Glyph.all, glyphCode, lit, litDigit, h, h0]

/-- The ROM is in canonical form under every SEG_POS. -/
theorem glyphRom_wf (p : SegPos) : (glyphRom p).wf = true := by
  have h : ∀ s rest, pat p (s :: rest) ≠ Memory.unlisted := pat_cons_ne_zero p
  rw [glyphRom_eq]
  simp [Memory.wf, litDigit, h]

/-- Reading a memory in canonical form gives the byte of the one cell at the address. -/
theorem Memory.read_of_mem (m : Memory) (hm : m.Pairwise fun x y => x.1 < y.1) (a : Nat) (b : BitVec 8)
    (h : (a, b) ∈ m) : m.read a = b := by
  induction m with
  | nil => cases h
  | cons c rest ih =>
    obtain ⟨at_, byte⟩ := c
    cases h with
    | head => simp [Memory.read]
    | tail _ h =>
      have hlt : at_ < a := (List.pairwise_cons.mp hm).1 _ h
      simp [Memory.read, show at_ ≠ a by omega, ih (List.pairwise_cons.mp hm).2 h]

/-- An address that is not listed reads as the blank pattern. -/
theorem Memory.read_of_not_mem (m : Memory) (a : Nat) (h : ∀ b, (a, b) ∉ m) : m.read a = Memory.unlisted := by
  induction m with
  | nil => rfl
  | cons c rest ih =>
    obtain ⟨at_, byte⟩ := c
    have h1 : at_ ≠ a := fun e => h byte (by simp [e])
    simp [Memory.read, h1, ih fun b hb => h b (List.mem_cons_of_mem _ hb)]

end Sys2Proof.Machine
end

