-- ==== Sys2Proof/Laws/PerInstr.lean ====
section
/-! SUPPORT. Statements made of every command, one lemma a constructor. -/

namespace Sys2Proof.Laws.Encoding

/-- The word of a command carries its opcode, an opcode of 30_encoding.md R71, and 0 in every bit R71 calls ignored; and
the command is well formed. -/
def Statement (i : Instr) : Prop :=
  opcField (encode i) = opcode i ∧ (opcode i).toNat ≤ 4 ∧ i.wf = true ∧
  match i with
  | .nop => ∀ j, j < 24 → (encode i).getLsbD j = false
  | .shiftp _ => ∀ j, 8 ≤ j → j < 24 → (encode i).getLsbD j = false
  | .shiftg _ _ => ∀ j, 9 ≤ j → j < 24 → (encode i).getLsbD j = false
  | .latch => ∀ j, j < 24 → (encode i).getLsbD j = false
  | .render _ => True

theorem nop : Statement .nop := by
  refine ⟨opcField_encode _, by decide, rfl, fun j h => ?_⟩
  rw [getLsbD_encode, if_pos h]
  exact BitVec.getLsbD_zero

theorem shiftp (pattern : Pattern) : Statement (.shiftp pattern) := by
  refine ⟨opcField_encode _, by simp [opcode], ?_, fun j h8 h => ?_⟩
  · have := pattern.isLt
    simp only [Instr.wf, decide_eq_true_eq]; omega
  · rw [getLsbD_encode, if_pos h, getLsbD_operandBits_shiftp, BitVec.getLsbD_of_ge _ _ h8]

theorem shiftg (gcode : Code) (dp : Bool) : Statement (.shiftg gcode dp) := by
  refine ⟨opcField_encode _, by simp [opcode], ?_, fun j h9 h => ?_⟩
  · have := gcode.isLt
    simp only [Instr.wf, decide_eq_true_eq]; omega
  · rw [getLsbD_encode, if_pos h, getLsbD_operandBits_shiftg, if_neg (by omega), BitVec.getLsbD_of_ge _ _ (by omega)]

theorem latch : Statement .latch := by
  refine ⟨opcField_encode _, by decide, rfl, fun j h => ?_⟩
  rw [getLsbD_encode, if_pos h]
  exact BitVec.getLsbD_zero

theorem render (mag : Magnitude) : Statement (.render mag) := by
  refine ⟨opcField_encode _, by simp [opcode], ?_, trivial⟩
  have := mag.isLt
  simp only [Instr.wf, decide_eq_true_eq]; omega

end Sys2Proof.Laws.Encoding
end

