-- ==== Sys2Proof/Laws/Sequencer.lean ====
section
/-! SUPPORT. The sequencer event by event: what one event does at each position, what runs of events are, how many are
left, and what they can change. -/

namespace Sys2Proof.Machine

open Sys2Proof.Safety

/-! A change of PHASE alone commutes with an event and with the updates after a SHIFT_DIGIT's event. -/

/-- The event of a SHIFT_DIGIT does not depend on PHASE. -/
theorem shiftEvent_phase (j s ph) : shiftEvent j { s with phase := ph } = shiftEvent j s := rfl

/-- Drive neither reads nor writes PHASE. -/
theorem drive_phase (l v s ph) : drive l v { s with phase := ph } = { drive l v s with phase := ph } := by
  cases l <;> cases v <;> simp [drive, State.level, State.setLevel, clkRise, latRise]
  · cases s.clk <;> simp
  · cases s.lat <;> simp

/-- Drive leaves PHASE. -/
theorem drive_keeps_phase (l v s) : (drive l v s).phase = s.phase := by
  cases l <;> cases v <;> simp [drive, State.level, State.setLevel, clkRise, latRise]
  · cases s.clk <;> simp
  · cases s.lat <;> simp

/-- The updates after an event of a SHIFT_DIGIT neither read nor write PHASE. -/
theorem afterShiftEvent_phase (j s ph) :
    afterShiftEvent j { s with phase := ph } = { afterShiftEvent j s with phase := ph } := by
  unfold afterShiftEvent; split
  · rfl
  · split <;> rfl

/-- The contract check neither reads nor writes PHASE. -/
theorem checkLatch_phase (s : State) (ph) : checkLatch { s with phase := ph } = { checkLatch s with phase := ph } := by
    unfold checkLatch; split <;> rfl

/-- The contract check leaves PHASE. -/
theorem checkLatch_keeps_phase (s : State) : (checkLatch s).phase = s.phase := by unfold checkLatch; split <;> rfl

/-! One event, by position. -/

/-- Event j of a SHIFT_DIGIT with the updates after it, without the position. -/
def shiftTick (j : Nat) (s : State) : State := afterShiftEvent j (applyEvent (shiftEvent j s) s)

/-- n events of a SHIFT_DIGIT from event j on. -/
def shiftTicks : Nat → Nat → State → State
  | _, 0, s => s
  | j, n + 1, s => shiftTicks (j + 1) n (shiftTick j s)

/-- What RENDER does before the first event of its digit k. -/
def loadDigit (k : Nat) (s : State) : State :=
  loadPattern ({ s with digIdx := BitVec.ofNat 2 k }).unitsPattern { s with digIdx := BitVec.ofNat 2 k }

/-- One event of SHIFTP or SHIFTG. -/
theorem tick_shifting (s : State) (k : Fin 24) :
    tick { s with phase := .shifting k } =
      { shiftTick k.val s with phase := if h : k.val + 1 < 24 then .shifting ⟨k.val + 1, h⟩ else .idle } := by
  simp only [tick, beforeEvent, nextEvent]
  simp only [afterEvent, applyEvent, drive_keeps_phase]
  rw [shiftEvent_phase, drive_phase, afterShiftEvent_phase]
  by_cases h : k.val + 1 < 24
  · simp only [h, dite_true]; rfl
  · simp only [h, dite_false]; rfl

/-- One event of RENDER's digits. -/
theorem tick_rendering (s : State) (k : Fin 98) (hk : k.val < 96) :
    tick { s with phase := .rendering k } =
      { (let u := shiftTick (k.val % 24) (if k.val % 24 = 0 then loadDigit (k.val / 24) s else s)
         if k.val % 24 = 23 then divideMag u else u) with phase := .rendering ⟨k.val + 1, by omega⟩ } := by
  have h96 : ¬ k.val = 96 := by omega
  simp only [tick, beforeEvent, h96, if_false, hk, true_and]
  by_cases h0 : k.val % 24 = 0
  · simp only [h0, if_true, loadPattern, nextEvent, afterEvent, applyEvent, drive_keeps_phase, hk, shiftEvent]
    simp only [loadDigit, loadPattern]
    simp only [show ¬ (0 = 23) by omega, and_false, if_false, show k.val + 1 < 98 by omega, dite_true]
    rfl
  · simp only [h0, if_false, nextEvent, afterEvent, applyEvent, drive_keeps_phase, hk, if_true, true_and]
    rw [shiftEvent_phase, drive_phase, afterShiftEvent_phase]
    by_cases h23 : k.val % 24 = 23
    · simp only [h23, if_true, show k.val + 1 < 98 by omega, dite_true]; rfl
    · simp only [h23, if_false, show k.val + 1 < 98 by omega, dite_true]; rfl

/-- The first event of LATCH. -/
theorem tick_latching_first (s : State) :
    tick { s with phase := .latching 0 } = { drive .lat false (checkLatch s) with phase := .latching 1 } := by
  have e : (0 : Fin 2).val = 0 := rfl
  simp only [tick, beforeEvent, e, if_true, checkLatch_phase, nextEvent, latchEvent, afterEvent, applyEvent,
      drive_phase]
  rfl

/-- The last event of LATCH. -/
theorem tick_latching_last (s : State) :
    tick { s with phase := .latching 1 } = toIdle (clearPending (drive .lat true s)) := by
  have e : (1 : Fin 2).val = 1 := rfl
  simp only [tick, beforeEvent, e, show ¬ 1 = 0 by omega,
    if_false, nextEvent, latchEvent, afterEvent, applyEvent, drive_phase]
  rfl

/-- The first event of RENDER's latch. -/
theorem tick_rendering_latch_first (s : State) :
    tick { s with phase := .rendering 96 } = { drive .lat false (checkLatch s) with phase := .rendering 97 } := by
  have e : (96 : Fin 98).val = 96 := rfl
  simp only [tick, beforeEvent, e, if_true, checkLatch_phase, nextEvent, latchEvent, afterEvent, applyEvent,
      drive_phase, show ¬ 96 < 96 by omega, if_false, false_and]
  rfl

/-- The last event of RENDER. -/
theorem tick_rendering_latch_last (s : State) :
    tick { s with phase := .rendering 97 } = toIdle (clearPending (drive .lat true s)) := by
  have e : (97 : Fin 98).val = 97 := rfl
  simp only [tick, beforeEvent, e, show ¬ 97 = 96 by omega,
    if_false, nextEvent, latchEvent, afterEvent, applyEvent, drive_phase, show ¬ 97 < 96 by omega,
      false_and]
  rfl

/-! Runs of events. -/

/-- A run of m + n events is a run of m and then of n. -/
theorem runEvents_add (m n s) : runEvents (m + n) s = runEvents n (runEvents m s) := by
  induction m generalizing s with
  | zero => simp [runEvents]
  | succ m ih => rw [show m + 1 + n = (m + n) + 1 by omega, runEvents, runEvents, ih]

/-- A run of m + n events of a SHIFT_DIGIT is a run of m and then of n. -/
theorem shiftTicks_add (j m n s) : shiftTicks j (m + n) s = shiftTicks (j + m) n (shiftTicks j m s) := by
  induction m generalizing j s with
  | zero => simp [shiftTicks]
  | succ m ih => rw [show m + 1 + n = (m + n) + 1 by omega, shiftTicks, shiftTicks, ih]; congr 1; omega

/-- A run of events inside SHIFTP or SHIFTG. -/
theorem runEvents_shifting (n : Nat) (s : State) (k : Nat) (hk : k < 24) (h : k + n ≤ 24) :
    runEvents n { s with phase := .shifting ⟨k, hk⟩ } =
      { shiftTicks k n s with phase := if h : k + n < 24 then .shifting ⟨k + n, h⟩ else .idle } := by
  induction n generalizing s k with
  | zero => simp [runEvents, shiftTicks, hk]
  | succ n ih =>
    rw [runEvents, tick_shifting, shiftTicks]
    by_cases h1 : k + 1 < 24
    · rw [dif_pos h1, ih (shiftTick k s) (k+1) h1 (by omega)]
      simp only [show k + 1 + n = k + (n+1) by omega]
    · have : n = 0 := by omega
      subst this
      simp [runEvents, shiftTicks, h1]

/-- The three events of a bit other than the last are its SHIFT_BIT, and BITIDX goes to the next bit. -/
theorem shiftTicks_three (q : Nat) (hq : q < 7) (s : State) :
    shiftTicks (3 * q) 3 s =
      { shiftBit s.currentBit s with bitIdx := s.bitIdx - 1 } := by
  simp only [shiftTicks, shiftTick, shiftEvent, show 3 * q % 3 = 0 by omega, show (3 * q + 1) % 3 = 1 by omega,
    show (3 * q + 1 + 1) % 3 = 2 by omega, afterShiftEvent, show ¬ 3 * q = 23 by omega,
    show ¬ 3 * q + 1 = 23 by omega, show ¬ 3 * q + 1 + 1 = 23 by omega, if_false, if_true, applyEvent,
    show ¬ 0 = 2 by omega, show ¬ 1 = 2 by omega]
  simp only [shiftBit, pulse]
  simp [drive, State.level, State.setLevel, clkRise]

/-- The three events of the last bit are its SHIFT_BIT, and PENDING counts the pattern. -/
theorem shiftTicks_last (s : State) :
    shiftTicks 21 3 s = countShift (shiftBit s.currentBit s) := rfl

/-- The 24 events of a loaded pattern are its SHIFT_DIGIT. -/
theorem shiftTicks_digit (p : Pattern) (s : State) : shiftTicks 0 24 (loadPattern p s) = shiftDigit p s := by
  have h (q : Nat) (hq : q < 7) (u : State) := shiftTicks_three q hq u
  rw [shiftTicks_add 0 3 21, shiftTicks_add _ 3 18, shiftTicks_add _ 3 15, shiftTicks_add _ 3 12,
      shiftTicks_add _ 3 9, shiftTicks_add _ 3 6, shiftTicks_add _ 3 3]
  rw [shiftTicks_last, h 6 (by omega), h 5 (by omega), h 4 (by omega), h 3 (by omega), h 2 (by omega),
      h 1 (by omega), h 0 (by omega)]
  simp [shiftDigit, shiftBits, loadPattern, shiftBit_eq, State.currentBit]

/-- A run of events inside a digit of RENDER. -/
theorem runEvents_rendering_inside (n : Nat) (s : State) (q j : Nat) (hq : q < 4) (hj : j ≠ 0) (h : j + n < 24) :
    runEvents n { s with phase := .rendering ⟨24 * q + j, by omega⟩ } =
      { shiftTicks j n s with phase := .rendering ⟨24 * q + j + n, by omega⟩ } := by
  induction n generalizing s j with
  | zero => simp [runEvents, shiftTicks]
  | succ n ih =>
    rw [runEvents, tick_rendering _ _ (by simp only; omega), shiftTicks]
    simp only [show (24 * q + j) % 24 = j by omega, hj, if_false, show ¬ j = 23 by omega]
    have := ih (shiftTick j s) (j+1) (by omega) (by omega)
    simp only [show 24 * q + (j + 1) = 24 * q + j + 1 by omega,
      show 24 * q + j + 1 + n = 24 * q + j + (n + 1) by omega] at this
    exact this

/-- The 24 events of RENDER's digit q are one turn of its loop. -/
theorem runEvents_rendering_digit (s : State) (q : Nat) (hq : q < 4) :
    runEvents 24 { s with phase := .rendering ⟨24 * q, by omega⟩ } =
      { renderDigit q s with phase := .rendering ⟨24 * q + 24, by omega⟩ } := by
  have e24 : ∀ u, runEvents 24 u = tick (runEvents 22 (tick u)) := fun u => by
    rw [show 24 = 1 + (22 + 1) by rfl, runEvents_add, runEvents_add]; rfl
  rw [e24, tick_rendering _ _ (by simp only; omega)]
  simp only [show 24 * q % 24 = 0 by omega, if_true, show ¬ 0 = 23 by omega, if_false, show 24 * q / 24 = q by omega]
  rw [runEvents_rendering_inside 22 _ q 1 hq (by omega) (by omega), tick_rendering _ _ (by simp only; omega)]
  simp only [show (24 * q + 1 + 22) % 24 = 23 by omega, if_true, show ¬ 23 = 0 by omega, if_false]
  have e : shiftTick 23 (shiftTicks 1 22 (shiftTick 0 (loadDigit q s))) = shiftTicks 0 24 (loadDigit q s) := by
    have e1 := shiftTicks_add 0 1 23 (loadDigit q s)
    have e2 := shiftTicks_add 1 22 1 (shiftTicks 0 1 (loadDigit q s))
    exact (e1.trans e2).symm
  rw [e, loadDigit, shiftTicks_digit]
  rfl

/-- The two events of LATCH are its LATCH_PULSE. -/
theorem runEvents_latching (s : State) : runEvents 2 { s with phase := .latching 0 } = toIdle (latchPulse s) := by
  simp only [runEvents]; rw [tick_latching_first, tick_latching_last]; rfl

/-- The two last events of RENDER are its LATCH_PULSE. -/
theorem runEvents_rendering_latch (s : State) :
    runEvents 2 { s with phase := .rendering 96 } = toIdle (latchPulse s) := by
  simp only [runEvents]; rw [tick_rendering_latch_first, tick_rendering_latch_last]; rfl

/-! How many events are left. -/

/-- The events a command in progress has left (10_state.md R23). -/
def eventsLeft (p : Phase) : Nat :=
  match p with
  | .idle => 0
  | .shifting k => 24 - k.val
  | .latching k => 2 - k.val
  | .rendering k => 98 - k.val

/-- None are left exactly while IDLE. -/
theorem eventsLeft_eq_zero (p : Phase) : eventsLeft p = 0 ↔ p = .idle := by
  cases p <;> simp [eventsLeft] <;> omega

/-- At most 98 are left. -/
theorem eventsLeft_le (p : Phase) : eventsLeft p ≤ 98 := by cases p <;> simp [eventsLeft] <;> omega

/-- What comes before an event leaves PHASE. -/
theorem beforeEvent_phase (s : State) : (beforeEvent s).phase = s.phase := by
  unfold beforeEvent
  split
  · rfl
  · rfl
  · split
    · exact checkLatch_keeps_phase s
    · rfl
  · split
    · exact checkLatch_keeps_phase s
    · split <;> rfl

/-- The position advances by one after an event. -/
theorem eventsLeft_afterEvent (s : State) : eventsLeft (afterEvent s).phase = eventsLeft s.phase - 1 := by
  unfold afterEvent
  split <;> rename_i h
  · simp [h, eventsLeft]
  · rename_i k
    simp only
    split
    · simp [h, eventsLeft]; omega
    · simp [h, eventsLeft]; omega
  · rename_i k
    split
    · simp [h, eventsLeft]; omega
    · simp [h, eventsLeft]; omega
  · rename_i k
    simp only
    split
    · simp [h, eventsLeft]; omega
    · simp [h, eventsLeft]; omega

/-- One event less is left after an event. -/
theorem eventsLeft_tick (s : State) : eventsLeft (tick s).phase = eventsLeft s.phase - 1 := by
  simp only [tick]
  split
  · rename_i h
    have : s.phase = .idle := by
      unfold nextEvent at h
      rw [beforeEvent_phase] at h
      cases hp : s.phase <;> simp [hp] at h ⊢
    rw [beforeEvent_phase, this]; rfl
  · rw [eventsLeft_afterEvent]; simp only [applyEvent, drive_keeps_phase, beforeEvent_phase]

/-- n events less are left after n events. -/
theorem eventsLeft_runEvents (n s) : eventsLeft (runEvents n s).phase = eventsLeft s.phase - n := by
  induction n generalizing s with
  | zero => rfl
  | succ n ih => rw [runEvents, ih, eventsLeft_tick]; omega

/-- At acceptance all events of the command are left. -/
theorem eventsLeft_beginCommand (i s) (h : s.phase = .idle) : eventsLeft (beginCommand i s).phase = eventCount i := by
  cases i <;> simp [beginCommand, eventsLeft, eventCount, h]

/-- CMD_READY is HIGH exactly when no event is left. -/
theorem cmdReady_iff (s : State) : s.cmdReady = true ↔ eventsLeft s.phase = 0 := by
  rw [eventsLeft_eq_zero, State.cmdReady]; simp

/-! What an event, a run of events and an acceptance can change at all. -/

/-- The contract check changes FAULT only. -/
theorem checkLatch_frame (s : State) : ∃ f, checkLatch s = { s with faults := f } := by
  unfold checkLatch; split
  · exact ⟨s.faults, rfl⟩
  · exact ⟨_, rfl⟩

/-- An event changes lines, sequencer, monitor and chain only. -/
theorem tick_frame (s : State) :
    ∃ a b c d e f g h i j k l, tick s =
      { s with
        clk := a, dat := b, lat := c, phase := d, sr := e, bitIdx := f, digIdx := g, mag := h
        pending := i, faults := j, storage := k, output := l } := by
  have hb : ∃ e f g j, beforeEvent s = { s with sr := e, bitIdx := f, digIdx := g, faults := j } := by
    obtain ⟨f, hf⟩ := checkLatch_frame s
    unfold beforeEvent
    split
    · exact ⟨_, _, _, _, rfl⟩
    · exact ⟨_, _, _, _, rfl⟩
    · split
      · exact ⟨_, _, _, _, hf⟩
      · exact ⟨_, _, _, _, rfl⟩
    · split
      · exact ⟨_, _, _, _, hf⟩
      · split
        · exact ⟨_, _, _, _, rfl⟩
        · exact ⟨_, _, _, _, rfl⟩
  have ha (u : State) : ∃ d f h i, afterEvent u = { u with phase := d, bitIdx := f, mag := h, pending := i } := by
    have hs (j) (u : State) : ∃ f i, afterShiftEvent j u = { u with bitIdx := f, pending := i } := by
      unfold afterShiftEvent; split
      · exact ⟨_, _, rfl⟩
      · split <;> exact ⟨_, _, rfl⟩
    unfold afterEvent
    split
    · exact ⟨_, _, _, _, rfl⟩
    · rename_i k _
      obtain ⟨f, i, e⟩ := hs k.val u
      simp only [e]; split <;> exact ⟨_, _, _, _, rfl⟩
    · split <;> exact ⟨_, _, _, _, rfl⟩
    · rename_i k _
      obtain ⟨f, i, e⟩ := hs (k.val % 24) u
      simp only [e]
      split <;> split <;> split <;> exact ⟨_, _, _, _, rfl⟩
  have he (ev : Event) (u : State) :
      ∃ a b c k l, applyEvent ev u = { u with clk := a, dat := b, lat := c, storage := k, output := l } := by
    rcases applyEvent_cases ev u with ⟨_, _, h⟩ | ⟨_, _, h⟩ | h
    · exact ⟨_, _, _, _, _, h⟩
    · exact ⟨_, _, _, _, _, h⟩
    · rw [h]; unfold State.setLevel; split <;> exact ⟨_, _, _, _, _, rfl⟩
  obtain ⟨e, f, g, j, hb⟩ := hb
  simp only [tick]
  split
  · rw [hb]; exact ⟨_, _, _, _, _, _, _, _, _, _, _, _, rfl⟩
  · rename_i ev _
    obtain ⟨a, b, c, k, l, he⟩ := he ev (beforeEvent s)
    obtain ⟨d', f', h', i', ha⟩ := ha (applyEvent ev (beforeEvent s))
    rw [ha, he, hb]; exact ⟨_, _, _, _, _, _, _, _, _, _, _, _, rfl⟩

/-- So does a run of events. -/
theorem runEvents_frame (n : Nat) (s : State) :
    ∃ a b c d e f g h i j k l, runEvents n s =
      { s with
        clk := a, dat := b, lat := c, phase := d, sr := e, bitIdx := f, digIdx := g, mag := h
        pending := i, faults := j, storage := k, output := l } := by
  induction n generalizing s with
  | zero => exact ⟨_, _, _, _, _, _, _, _, _, _, _, _, rfl⟩
  | succ n ih =>
    rw [runEvents]
    obtain ⟨a, b, c, d, e, f, g, h, i, j, k, l, ht⟩ := tick_frame s
    obtain ⟨a', b', c', d', e', f', g', h', i', j', k', l', hr⟩ := ih (tick s)
    rw [hr, ht]; exact ⟨_, _, _, _, _, _, _, _, _, _, _, _, rfl⟩

/-- A command's acceptance changes PHASE, SR, BITIDX and MAG only. -/
theorem beginCommand_frame (i : Instr) (s : State) :
    ∃ d e f h, beginCommand i s = { s with phase := d, sr := e, bitIdx := f, mag := h } := by
  cases i <;> exact ⟨_, _, _, _, rfl⟩

/-- A move of the host changes input ports and its own pause only, or it is the power cycle. -/
theorem hostMove_land_cases (m : HostMove) (s : State) :
    (m ≠ .powerCycle ∧ ∃ a b c d e f,
      m.land s = { s with cmd := a, cmdValid := b, pauseAfter := c, rst := d, encCode := e, encDp := f }) ∨
    (m = .powerCycle ∧ m.land s = powerOnReset s) := by
  cases m with
  | offer w p => left; exact ⟨by simp, _, _, _, _, _, _, rfl⟩
  | driveRst level => left; exact ⟨by simp, _, _, _, _, _, _, rfl⟩
  | encoderPort c d => left; exact ⟨by simp, _, _, _, _, _, _, rfl⟩
  | powerCycle => right; exact ⟨rfl, rfl⟩

end Sys2Proof.Machine
end

