-- ==== Sys2Proof/Tests/Slice0.lean ====
section
/-! SUPPORT. Tests of the model against the spec's own worked examples (30_encoding.md R81; 95_test_vectors.md), the
well-formedness smoke tests, and for every statement with hypotheses a witness that meets them. -/

namespace Sys2Proof.Tests

open Sys2Proof Sys2Proof.Machine Sys2Proof.Safety

/-- Power-on, with a given wiring. -/
def poweredOn (p : SegPos) : State := { State.reset with segPos := p }

/-- Power-on under REF_SEG_POS. -/
def ref : State := poweredOn .ref

/-- Four patterns, those of the digits 2, 4, 0, 0 under REF_SEG_POS, shifted in that order and not latched: S reads
0x5B663F3F (95_test_vectors.md 2.4, 2.5). -/
def shifted : State :=
  { ref with clk := true, dat := true, pending := 4, accepted := 4, storage := image 0x3F 0x3F 0x66 0x5B }

/-- `shifted`, latched: the display reads `0042`. -/
def showing : State := { shifted with lat := true, pending := 0, output := image 0x3F 0x3F 0x66 0x5B }

/-- A view of the state an outcome gives. -/
def seen {α : Type} (view : State → α) : Host.Outcome State Fault Refusal → Option α
  | .next t => some (view t)
  | .fault _ => none
  | .refused _ => none

/-- An outcome is a next state. -/
def goesOn (o : Host.Outcome State Fault Refusal) : Bool := (seen (fun _ => ()) o).isSome

/-- The three lines, CLK, DAT, LAT. -/
def lines (s : State) : Bool × Bool × Bool := (s.clk, s.dat, s.lat)

/-- The pattern in the eight stages nearest the input. -/
def firstStages (s : State) : Option Nat := packBits (cellBits s.storage 0)

/-! Well-formed source lines and commands: an ill-formed term for each check. -/

theorem test_wf_refuses_pattern_256 : AsmLine.wf (.shiftp 256) = false := by decide

theorem test_wf_refuses_magnitude_16777216 : AsmLine.wf (.render 16777216) = false := by decide

theorem test_wf_refuses_digit_10 : AsmLine.wf (.shiftg (.digit 10) false) = false := by decide

theorem test_wf_refuses_quoted_digit : AsmLine.wf (.shiftg (.quoted '4') true) = false := by decide

theorem test_wf_refuses_raw_256 : AsmLine.wf (.shiftg (.raw 256) false) = false := by decide

theorem test_wf_refuses_each_show_operand :
    [AsmLine.showFour ⟨.digit 10, true⟩ ⟨.digit 1, false⟩ ⟨.digit 2, false⟩ ⟨.digit 3, false⟩,
      .showFour ⟨.digit 0, true⟩ ⟨.raw 256, false⟩ ⟨.digit 2, false⟩ ⟨.digit 3, false⟩,
      .showFour ⟨.digit 0, true⟩ ⟨.digit 1, false⟩ ⟨.quoted 'C', false⟩ ⟨.digit 3, false⟩,
      .showFour ⟨.digit 0, true⟩ ⟨.digit 1, false⟩ ⟨.digit 2, false⟩ ⟨.digit 11, false⟩].map AsmLine.wf =
      [false, false, false, false] := by decide

theorem test_wf_takes_the_limits :
    [AsmLine.shiftp 255, .render 16777215, .shiftg (.digit 9) true, .shiftg (.raw 255) false,
      .shiftg (.quoted 'c') true].map AsmLine.wf = [true, true, true, true, true] := by decide

theorem test_every_operand_is_in_range :
    [Instr.nop, .shiftp 255, .shiftg 255 true, .latch, .render 16777215].map Instr.wf =
      [true, true, true, true, true] := by decide

/-! Decoding: the words of 30_encoding.md R81, written out by R70 and R71 as OPC, unused bits and operand. -/

theorem test_decode_nop : decode 0b00000000_000000000000000000000000 = .nop := by decide

theorem test_decode_shiftp : decode 0b00000001_0000000000000000_00111111 = .shiftp 0x3F := by decide

theorem test_decode_shiftg : decode 0b00000010_000000000000000_0_00000100 = .shiftg 0x04 false := by decide

theorem test_decode_shiftg_dp : decode 0b00000010_000000000000000_1_00000100 = .shiftg 0x04 true := by decide

theorem test_decode_latch : decode 0b00000011_000000000000000000000000 = .latch := by decide

theorem test_decode_render : decode 0b00000100_000000000011000000111001 = .render 12345 := by decide

/-- The words of 95_test_vectors.md 2.7. -/
theorem test_decode_reserved_and_ignored :
    [(0x00ABCDEF : Word), 0x05000001, 0xFF123456].map decode = [.nop, .nop, .nop] := by decide

/-- Ignored bits (30_encoding.md R71), all set. -/
theorem test_decode_ignored_bits :
    [(0x01FFFFA5 : Word), 0x02FFFE63, 0x03FFFFFF].map decode = [.shiftp 0xA5, .shiftg 0x63 false, .latch] := by decide

/-- A word wider than a command word is no command. -/
theorem test_decode_table_word :
    decodeTableWord 32 0x02000104 = some (.shiftg 0x04 true) ∧ decodeTableWord 33 0x02000104 = none := by decide

/-! The assembler (30_encoding.md R78 to R80; the program P2 of 95_test_vectors.md). -/

theorem test_assemble_show :
    assembleText "  SHOW '-', 'c':DP, '-', ' ' ; status".toList =
      some [0x02000020, 0x0200002D, 0x02000163, 0x0200002D, 0x03000000] := by decide

theorem test_assembler_refuses :
    ["SHIFTG '4'", "SHIFTP 256", "RENDER 0x1000000", "SHIFTG 10", "LATCH 1", "SHIFTG 4,", "JUMP 1"].map
      (fun text => assembleText text.toList) = [none, none, none, none, none, none, none] := by decide

/-! The encoder port (95_test_vectors.md 2.1). -/

/-- The state whose encoder port has given inputs. -/
def asking (p : SegPos) (code : Code) (dp : Bool) : State := { poweredOn p with encCode := code, encDp := dp }

/-- The codes of the thirteen glyphs and then of the corner cases. -/
def codes : List Code := [0, 1, 2, 3, 4, 5, 6, 7, 8, 9, 0x20, 0x2D, 0x63]

/-- Codes outside the glyph set. -/
def otherCodes : List Code := [0x0A, 0x1F, 0x21, 0x2C, 0x2E, 0x30, 0x34, 0x39, 0x43, 0x62, 0x64, 0xFF]

theorem test_encoder_port_ref : codes.map (fun c => (asking .ref c false).encPat) =
    [0x3F, 0x06, 0x5B, 0x4F, 0x66, 0x6D, 0x7D, 0x07, 0x7F, 0x6F, 0x00, 0x40, 0x58] := by decide

theorem test_encoder_port_alt_dp : codes.map (fun c => (asking .alt c true).encPat) =
    [0xFD, 0x61, 0xDB, 0xF3, 0x67, 0xB7, 0xBF, 0xE1, 0xFF, 0xF7, 0x01, 0x03, 0x1B] := by decide

theorem test_encoder_port_other_codes :
    otherCodes.all (fun c => (asking .ref c false).encPat == 0x00 && (asking .ref c true).encPat == 0x80 &&
      (asking .alt c true).encPat == 0x01) = true := by decide

/-- The ROM is in the memory's canonical form under both wirings of the test vectors. -/
theorem test_rom_canonical : (glyphRom .ref).wf = true ∧ (glyphRom .alt).wf = true := by decide

/-! Pin primitives (95_test_vectors.md 2.2). -/

theorem test_pulse_from_high : lines (pulse .lat showing) = (true, true, true) ∧
    chainWord (pulse .lat { showing with storage := image 0x44 0x33 0x22 0x11 }).output = some 0x11223344 := by
  decide

theorem test_data_alone_moves_nothing :
    (drive .dat false shifted).storage = shifted.storage ∧ (drive .dat false shifted).output = shifted.output ∧
      lines (drive .dat false shifted) = (true, false, false) := by decide

/-! The commands. -/

/-- 95_test_vectors.md 2.7. -/
theorem test_nop : seen (fun t => decide (t = shifted)) (exec (decode 0xFF123456) shifted) = some true := by
  decide

/-- 95_test_vectors.md 2.3. -/
theorem test_shiftp_from_power_on :
    seen (fun t => (firstStages t, lines t, t.pending)) (exec (.shiftp 0xA5) ref) =
        some (some 0xA5, (true, true, false), 1) ∧
      seen (fun t => (t.storage.toList.drop 8, t.output)) (exec (.shiftp 0xA5) ref) =
        some (List.replicate 24 none, ChainBits.unknown) := by decide

/-- 95_test_vectors.md 2.4, the fifth pattern. -/
theorem test_shiftp_fifth : seen (fun t => (chainWord t.storage, t.pending)) (exec (.shiftp 0xFF) shifted) =
    some (some 0x663F3FFF, 5) := by decide

/-- 42_number_renderer.md R160 (0x58), and the program P2's first cell with the decimal point. -/
theorem test_shiftg_c : seen firstStages (exec (decode 0x02000063) ref) = some (some 0x58) ∧
    seen firstStages (exec (decode 0x02000163) ref) = some (some 0xD8) := by decide

/-- The program P2 under ALT_SEG_POS. -/
theorem test_shiftg_c_dp_alt : seen firstStages (exec (.shiftg 0x63 true) (poweredOn .alt)) = some (some 0x1B) := by
  decide

/-- 95_test_vectors.md 2.5, first row. -/
theorem test_latch : seen (fun t => (chainWord t.output, t.pending, t.faults, lines t)) (exec .latch shifted.accept) =
    some (some 0x5B663F3F, 0, [], (true, true, true)) := by decide

/-- 95_test_vectors.md 2.5, second row. -/
theorem test_latch_at_power_on : seen (fun t => (t.output, t.faults)) (exec .latch ref.accept) =
    some (ChainBits.unknown, [⟨.latchCount, 0, 1⟩]) := by decide

/-- 95_test_vectors.md 2.6: `RENDER 42` under both wirings. -/
theorem test_render_42 :
    seen (fun t => (chainWord t.output, lines t, t.pending, t.faults)) (exec (.render 42) ref.accept) =
        some (some 0x5B663F3F, (true, true, true), 0, []) ∧
      seen (fun t => chainWord t.output) (exec (.render 42) (poweredOn .alt)) = some (some 0xDA66FCFC) := by
  decide +kernel

/-- 95_test_vectors.md 2.5, last row: `RENDER 42` with one pattern unlatched; and 2.6, the largest magnitude. -/
theorem test_render_unlatched_and_largest :
    seen (fun t => (chainWord t.output, t.faults))
        (exec (.render 42) { ref with pending := 1, accepted := 2 }) =
        some (some 0x5B663F3F, [⟨.latchCount, 5, 2⟩]) ∧
      seen (fun t => chainWord t.output) (exec (.render 16777215) ref) = some (some 0x6D065B07) := by decide +kernel

/-! Resets (95_test_vectors.md 2.8). -/

/-- RST after the third CLK rise of a `SHIFTP` that follows a completed `RENDER 42`. -/
theorem test_rst_inside_shiftp :
    seen (fun t => (chainWord t.output, t.storage, lines t, t.pending)) (step
        { showing with rst := true, phase := .shifting 9, sr := 0xFF, bitIdx := 4 }) =
      some (some 0x5B663F3F, ChainBits.unknown, (false, false, false), 0) := by decide

theorem test_power_cycle :
    seen (fun t => (t.output, t.storage, lines t, t.cmdReady)) (step { showing with host := [.powerCycle] }) =
      some (ChainBits.unknown, ChainBits.unknown, (false, false, false), true) := by decide

/-! The host (95_test_vectors.md 2.9). -/

theorem test_host_magnitude :
    [(419 / 10 : Rat), -419 / 10, -42, 1 / 2, 1234599 / 100, 16777216, 1000000000].map
        (fun q => hostRender (.number q)) =
      [some (.render 41), some (.render 41), some (.render 42), some (.render 0), some (.render 12345),
        some (.render 7216), some (.render 0)] := by decide +kernel

/-! Witnesses: for each statement with hypotheses, what meets them. -/

/-- Each clause of OpcodeAloneDecidesTheCommand, at its ends. -/
theorem witness_OpcodeAloneDecidesTheCommand :
    (0x00FFFFFF : Word) &&& 0xFF000000 = 0x00000000 ∧ (0x01000000 : Word) &&& 0xFF000000 = 0x01000000 ∧
      (0x01FFFFFF : Word) &&& 0xFF000000 = 0x01000000 ∧ (0x02FFFFFF : Word) &&& 0xFF000000 = 0x02000000 ∧
      (0x03FFFFFF : Word) &&& 0xFF000000 = 0x03000000 ∧ (0x04FFFFFF : Word) &&& 0xFF000000 = 0x04000000 ∧
      0x05000000 ≤ (0x05000000 : Word).toNat ∧ 0x05000000 ≤ (0xFFFFFFFF : Word).toNat := by decide

/-- The least reserved word and the greatest. -/
theorem witness_ReservedWords :
    0x05000000 ≤ (0x05000000 : Word).toNat ∧ 0x05000000 ≤ (0xFFFFFFFF : Word).toNat := by decide

/-- Words that differ in ignored bits only, for SHIFTP, SHIFTG and LATCH. -/
theorem witness_IgnoredBits :
    (opcField 0x01FFFFA5 = opcField 0x010000A5 ∧ (0x01FFFFA5 : Word) &&& 0xFF = 0x010000A5 &&& 0xFF) ∧
      (opcField 0x02FFFF63 = opcField 0x02000163 ∧ (0x02FFFF63 : Word) &&& 0x1FF = 0x02000163 &&& 0x1FF) ∧
      opcField 0x03FFFFFF = opcField 0x03000000 ∧
      (opcField 0x01FFFFA5).toNat = 1 ∧ (opcField 0x02FFFF63).toNat = 2 ∧ (opcField 0x03FFFFFF).toNat = 3 := by decide

/-- A text the assembler takes, and a word of it. -/
theorem witness_AssemblerEmits :
    ∃ words, assembleText "SHIFTG 4, DP".toList = some words ∧ (0x02000104 : Word) ∈ words :=
  ⟨[0x02000104], by decide, by decide⟩

/-- Quoted digits, at the ends of their range. -/
theorem witness_AssemblerRejects : '0' ≤ '0' ∧ '0' ≤ '9' ∧ '0' ≤ '4' ∧ '4' ≤ '9' ∧ '9' ≤ '9' := by decide

theorem test_assemble_refuses_each_show_operand :
    [AsmLine.showFour ⟨.digit 10, true⟩ ⟨.digit 1, false⟩ ⟨.digit 2, false⟩ ⟨.digit 3, false⟩,
      .showFour ⟨.digit 0, true⟩ ⟨.digit 1, false⟩ ⟨.digit 2, false⟩ ⟨.quoted '3', false⟩].map AsmLine.assemble =
      [none, none] := by decide

theorem witness_ShowAndBlank : ref.pending = 0 ∧ showing.pending = 0 := by decide

/-- A code that is no glyph's. -/
theorem witness_RomHolds : (∀ g : Glyph, glyphCode g ≠ 0x0A) ∧ glyphCode .minus = glyphCode .minus := by
  refine ⟨fun g => ?_, rfl⟩
  cases g with
  | digit d => revert d; decide
  | space => decide
  | minus => decide
  | c => decide

/-- The ends of the four ranges are in them, and the thirteen glyph codes are not. -/
theorem witness_SymbolGlyphs :
    (∀ code ∈ [(0x0A : Code), 0x1F, 0x21, 0x2C, 0x2E, 0x62, 0x64, 0xFF],
      (0x0A ≤ code ∧ code ≤ 0x1F) ∨ (0x21 ≤ code ∧ code ≤ 0x2C) ∨ (0x2E ≤ code ∧ code ≤ 0x62) ∨ 0x64 ≤ code) ∧
    ∀ code ∈ codes,
      ¬ ((0x0A ≤ code ∧ code ≤ 0x1F) ∨ (0x21 ≤ code ∧ code ≤ 0x2C) ∨ (0x2E ≤ code ∧ code ≤ 0x62) ∨ 0x64 ≤ code) := by
  decide

/-- A position that is not dp's; the other hypothesis, a code that is no glyph's, is witness_RomHolds. -/
theorem witness_DecimalPointFlag : (0 : Fin 8) ≠ SegPos.ref.pos .dp ∧ (7 : Fin 8) ≠ SegPos.alt.pos .dp := by decide

/-- A move on the encoder port at an IDLE block, and inside a command. -/
theorem witness_EncoderPort :
    ∀ s ∈ [{ ref with host := [.encoderPort 4 true] },
        { ref with host := [.encoderPort 4 true], phase := .shifting 9 }],
      s.rst = false ∧ s.accepts = false ∧ s.host = .encoderPort 4 true :: [] := by decide

/-- The four cases of DriveActsOnlyOnRisingEdges: a CLK rise, a LAT rise, and for each a drive that is none. -/
theorem witness_DriveActs :
    (ref.clk = false ∧ ref.lat = false) ∧ ¬ (Line.clk = .clk ∧ shifted.clk = false ∧ true = true) ∧
      ¬ (Line.lat = .lat ∧ showing.lat = false ∧ true = true) ∧ Line.dat ≠ Line.clk := by decide

/-- The opcodes the commands' statements are about: NOP's and the ends of the reserved range, and each other's. -/
theorem witness_CommandOpcodes :
    opcField 0x00ABCDEF = 0x00 ∧ 0x05 ≤ (opcField 0x05000001).toNat ∧ 0x05 ≤ (opcField 0xFF123456).toNat ∧
      opcField 0x01FFFFA5 = 0x01 ∧ opcField 0x02FFFF63 = 0x02 ∧ opcField 0x03FFFFFF = 0x03 ∧
      opcField 0x04FFFFFF = 0x04 := by decide

theorem witness_Pulse : ref.level .clk = false ∧ ref.level .dat = false ∧ ref.level .lat = false := by decide

theorem witness_RenderFaults : ({ ref with pending := 1 } : State).pending ≠ 0 ∧ ref.pending = 0 := by decide

theorem witness_UpdateIsIdempotent :
    isUpdate [.shiftg 2 false, .shiftp 0x66, .shiftg 0 true, .shiftp 0, .latch] = true ∧
      isUpdate [.render 42] = true := by decide

theorem witness_RenderDisplays : (0 : Nat) = (0 : Magnitude).toNat % 10000 ∧
    (7215 : Nat) = (16777215 : Magnitude).toNat % 10000 ∧
    seen (fun t => t.cellPattern 3) (exec (.render 42) ref) = some (some 0x5B) := by decide +kernel

theorem witness_EventByEventRun : ref.phase = .idle ∧ 97 < eventCount (.render 42) ∧ 0 < eventCount .latch := by decide

theorem witness_EventCounts :
    0x05000000 ≤ (0x05000000 : Word).toNat ∧ 0x05000000 ≤ (0xFFFFFFFF : Word).toNat := by decide

theorem witness_StepRuns :
    (ref.withFetchWord 32 0x0400002A).rst = false ∧ (ref.withFetchWord 32 0x0400002A).cmdValid = true ∧
      (ref.withFetchWord 32 0x0400002A).phase = .idle ∧ (ref.withFetchWord 32 0x0400002A).pauseAfter = none := by
  decide

/-- A command on offer with a pause, and no move of the host to come. -/
theorem witness_PausedAcceptance : ∀ n ∈ [0, 1, 97, 98, 99],
    ({ ref.withFetchWord 32 0x0400002A with pauseAfter := some n } : State).rst = false ∧
      ({ ref.withFetchWord 32 0x0400002A with pauseAfter := some n } : State).cmdValid = true ∧
      ({ ref.withFetchWord 32 0x0400002A with pauseAfter := some n } : State).phase = .idle ∧
      ({ ref.withFetchWord 32 0x0400002A with pauseAfter := some n } : State).pauseAfter = some n ∧
      ({ ref.withFetchWord 32 0x0400002A with pauseAfter := some n } : State).host = [] := by decide

/-- A busy block with no move to come, and with an offer that waits for another. -/
theorem witness_BusyStep :
    (({ ref with phase := .shifting 0 } : State).rst = false ∧
        ({ ref with phase := .shifting 0 } : State).phase ≠ .idle ∧
      ({ ref with phase := .shifting 0 } : State).host = []) ∧
    (({ ref with phase := .rendering 97, cmdValid := true, host := [.offer 0 none] } : State).rst = false ∧
      ({ ref with phase := .rendering 97, cmdValid := true, host := [.offer 0 none] } : State).phase ≠ .idle ∧
      ({ ref with phase := .rendering 97, cmdValid := true, host := [.offer 0 none] } : State).cmdValid = true ∧
      ∃ word pause rest, ({ ref with phase := .rendering 97, cmdValid := true, host := [.offer 0 none] } : State).host =
        .offer word pause :: rest) :=
  ⟨by decide, rfl, by decide, rfl, _, _, _, rfl⟩

/-- The first of RENDER's 98 events is next, and nothing disturbs the block. -/
theorem witness_StepsComplete :
    ({ ref with phase := .rendering 0 } : State).rst = false ∧
        ({ ref with phase := .rendering 0 } : State).cmdValid = false ∧
      ({ ref with phase := .rendering 0 } : State).host = [] := by decide

/-- Each move of the host, at a block that it finds busy with RST LOW, and at one in reset. -/
theorem witness_HostMovesLand :
    ∀ m ∈ [HostMove.offer 0x0400002A none, .driveRst true, .driveRst false, .encoderPort 4 true],
      (({ ref with phase := .latching 1, host := [m] } : State).rst = false ∧
        ({ ref with phase := .latching 1, host := [m] } : State).accepts = false ∧
        ({ ref with phase := .latching 1, host := [m] } : State).cmdValid = false ∧
        ({ ref with phase := .latching 1, host := [m] } : State).host = m :: []) ∧
      (({ ref with rst := true, cmdValid := true, host := [m] } : State).rst = true ∧
        ({ ref with rst := true, cmdValid := true, host := [m] } : State).cmdValid = true ∧
        ({ ref with rst := true, cmdValid := true, host := [m] } : State).host = m :: []) := by decide

theorem witness_IdleBlockWaits :
    ref.rst = false ∧ ref.phase = .idle ∧ ref.cmdValid = false ∧ ref.host = [] := by decide

/-- A busy block with a command on offer: with no move to come, and with a move that lands. -/
theorem witness_BusyBlockHoldsTheOffer :
    ∀ s ∈ [{ ref with phase := .latching 1, cmdValid := true },
        { ref with phase := .rendering 97, cmdValid := true, host := [.driveRst true] }],
      s.rst = false ∧ s.cmdReady = false ∧ s.cmdValid = true ∧ s.host.head? ≠ some .powerCycle := by decide

theorem witness_RstAbandons :
    ∀ s ∈ [{ showing with rst := true, phase := .rendering 50 },
        { showing with rst := true, cmdValid := true, host := [.driveRst false] }],
      s.rst = true ∧ s.host.head? ≠ some .powerCycle := by decide

theorem witness_HeldRst :
    ({ showing with rst := true, cmdValid := true } : State).rst = true ∧
      ({ showing with rst := true, cmdValid := true } : State).host = [] := by decide

/-- A command whose next word offered pauses after n events, with RST to come. -/
def interrupted (w : Word) (n : Nat) : State :=
  { showing with cmd := w, cmdValid := true, pauseAfter := some n, host := [.driveRst true, .driveRst false] }

/-- RST inside a SHIFTP, and at the last boundary before the LAT rise of a LATCH and of a RENDER. -/
theorem witness_RstInsideACommand :
    ∀ x ∈ [((0x010000FF : Word), 9), (0x03000000, 1), (0x0400002A, 97)],
      (interrupted x.1 x.2).rst = false ∧ (interrupted x.1 x.2).cmdValid = true ∧
        (interrupted x.1 x.2).phase = .idle ∧ (interrupted x.1 x.2).pauseAfter = some x.2 ∧
        (interrupted x.1 x.2).host = .driveRst true :: .driveRst false :: [] ∧
        (decode (interrupted x.1 x.2).cmd = .latch → x.2 ≤ 1) ∧
        (decode (interrupted x.1 x.2).cmd = .render 42 → x.2 ≤ 97) := by decide

theorem witness_PowerOnResetValues :
    (State.reset = State.reset ∨ State.reset = powerOnReset showing) ∧
      (powerOnReset showing = State.reset ∨ powerOnReset showing = powerOnReset showing) := ⟨.inl rfl, .inr rfl⟩

theorem witness_PowerLoss :
    ({ showing with host := [.powerCycle] } : State).rst = false ∧
      ({ showing with host := [.powerCycle] } : State).accepts = false ∧
      ({ showing with host := [.powerCycle] } : State).host = .powerCycle :: [] ∧
      ({ showing with rst := true, cmdValid := true, host := [.powerCycle] } : State).rst = true ∧
      ({ showing with rst := true, cmdValid := true, host := [.powerCycle] } : State).host = .powerCycle :: [] := by
  decide

/-- Every case of the count: a reset, an acceptance, a power cycle, and a move that lands. -/
theorem witness_RecordCount :
    [{ shifted with rst := true, host := [.driveRst false] }, shifted.withFetchWord 32 0xFF123456,
        { shifted with host := [.powerCycle] }, { shifted with host := [.encoderPort 4 true] }].map
      (fun s => seen (fun t => t.accepted) (step s)) = [some 0, some 5, some 0, some 4] := by decide

/-- The states in which a step changes O: an accepted LATCH, a LAT rise inside each latching command, a power cycle. -/
theorem witness_OnlyALatch :
    ∀ s ∈ [shifted.withFetchWord 32 0x03000000, shifted.withFetchWord 32 0x0400002A,
        { shifted with phase := .latching 1 }, { shifted with phase := .rendering 97 },
        { showing with host := [.powerCycle] }],
      seen (fun t => decide (t.output ≠ s.output)) (step s) = some true := by decide +kernel

/-- A step that adds a record, and a step that empties the list. -/
theorem witness_FaultListIsSticky :
    seen (fun t => t.faults) (step (ref.withFetchWord 32 0x03000000)) = some [⟨.latchCount, 0, 1⟩] ∧
      seen (fun t => t.faults) (step { ref with faults := [⟨.latchCount, 0, 1⟩], rst := true }) = some [] := by
  decide

theorem witness_NoStepChangesSegPos : goesOn (step (ref.withFetchWord 32 0x0400002A)) = true := by decide

/-- A chain that differs, everything else the same, in two states that both step. -/
theorem witness_TheBlockCannotReadTheChain :
    sameButChain ref { ref with storage := image 0x44 0x33 0x22 0x11 } ∧
      ref.storage ≠ image 0x44 0x33 0x22 0x11 ∧ goesOn (step ref) = true ∧
      goesOn (step { ref with storage := image 0x44 0x33 0x22 0x11 }) = true :=
  ⟨rfl, by decide, by decide, by decide⟩

/-- In the middle of a SHIFTP, its last bit about to enter. -/
def lastBit : State := { shifted with phase := .shifting 23, sr := 0x01, bitIdx := 0, dat := true, clk := false }

/-- The same position in the fourth digit of a RENDER 0, whose pattern under REF_SEG_POS is 0x3F. -/
def lastDigitBit : State :=
  { shifted with
    phase := .rendering 95, sr := 0x3F, bitIdx := 0, digIdx := 3, mag := 0, dat := true, clk := false, pending := 3 }

theorem witness_StepKeepsTheSequencerConsistent :
    sequencerConsistent ref ∧ sequencerConsistent lastBit ∧ sequencerConsistent lastDigitBit ∧
      sequencerConsistent { shifted with phase := .latching 1 } ∧
      sequencerConsistent { shifted with phase := .rendering 97 } ∧
      goesOn (step ref) = true ∧ goesOn (step lastBit) = true ∧ goesOn (step lastDigitBit) = true := by
  refine ⟨trivial, ⟨by decide, by decide, by decide⟩, ⟨fun _ _ => ⟨⟨?_, ?_, ?_⟩, by decide, ?_⟩, ?_⟩, fun _ => rfl,
    ⟨fun h => absurd h (by decide), fun _ => rfl⟩, ?_⟩
  all_goals decide

/-- Both invariants together, at an IDLE block and inside a SHIFTP and a RENDER. -/
theorem witness_StepKeepsTheCountedStorageKnown :
    storageKnown shifted ∧ storageKnown lastBit ∧ storageKnown lastDigitBit := by
  refine ⟨fun i _ => ?_, fun i _ => ?_, fun i _ => ?_⟩ <;> revert i <;> decide

theorem witness_UnfaultedLatch : storageKnown shifted ∧ shifted.pending = 4 :=
  ⟨witness_StepKeepsTheCountedStorageKnown.1, by decide⟩

/-- A program that keeps the contract and one that does not. -/
theorem witness_ContractKept :
    contractRun ref.pending [.shiftp 1, .shiftg 2 false, .nop, .shiftp 3, .shiftp 4, .latch, .render 42] = some 0 ∧
      contractRun ref.pending [.shiftp 1, .latch] = none := by decide

theorem witness_OfferedProgram : quiet ref = true ∧ quiet showing = true := by decide

/-- Values and magnitudes at the ends of the clauses. -/
theorem witness_HostMagnitude :
    (0 : Rat) ≤ 0 ∧ (0 : Rat) ≤ 1234599 / 100 ∧ 16777215 < 16777216 ∧ 16777216 ≤ 16777216 := by decide +kernel

end Sys2Proof.Tests
end

section
/-! PROOFS. O13: the bits of a segment pattern. O30: a command is the fold of its events over lines and chain. -/

/-! ## Segment positions and patterns (00_scope.md R9, R13) -/

namespace Sys2Proof.Machine

/-- The eight segments, in the order of `SegPos`'s fields. -/
def segments : List Segment := [.a, .b, .c, .d, .e, .f, .g, .dp]

theorem mem_segments (s : Segment) : s ∈ segments := by cases s <;> decide

/-- `SegPos.distinct`, read as a fact about `pos`. -/
theorem map_pos_segments_nodup (p : SegPos) : (segments.map p.pos).Nodup := p.distinct

theorem pos_injective (p : SegPos) : Function.Injective p.pos := fun s t h =>
  List.inj_on_of_nodup_map (map_pos_segments_nodup p) (mem_segments s) (mem_segments t) h

/-- Eight different positions among eight are all of them. -/
theorem pos_surjective (p : SegPos) : Function.Surjective p.pos := by
  intro i
  have hcard : (segments.map p.pos).toFinset.card = Fintype.card (Fin 8) :=
    List.toFinset_card_of_nodup (map_pos_segments_nodup p)
  have hi : i ∈ (segments.map p.pos).toFinset := Finset.eq_univ_iff_forall.mp (Finset.eq_univ_of_card _ hcard) i
  obtain ⟨s, -, hs⟩ := List.mem_map.mp (List.mem_toFinset.mp hi)
  exact ⟨s, hs⟩

theorem getLsbD_one_shiftLeft (i j : Fin 8) : (1#8 <<< i.val).getLsbD j.val = decide (j = i) := by
  revert i j; decide

theorem getLsbD_bitOf (p : SegPos) (t s : Segment) : (bitOf p t).getLsbD (p.pos s).val = decide (s = t) := by
  rw [bitOf, getLsbD_one_shiftLeft, decide_eq_decide]
  exact (pos_injective p).eq_iff

theorem getLsbD_pat (p : SegPos) (set : List Segment) (s : Segment) :
    (pat p set).getLsbD (p.pos s).val = decide (s ∈ set) := by
  induction set with
  | nil => simp [pat]
  | cons t rest ih =>
    rw [pat, BitVec.getLsbD_or, getLsbD_bitOf, ih, ← Bool.decide_or, decide_eq_decide, List.mem_cons]

/-! ## Event lists applied in order (00_scope.md R12; 41_display_driver.md R131 to R134) -/

open Sys2Proof.Safety

/-- A list of events, applied one after the other. -/
def applyEvents (es : List Event) (s : State) : State := es.foldl (fun v e => applyEvent e v) s

@[simp] theorem applyEvents_nil (s : State) : applyEvents [] s = s := rfl

@[simp] theorem applyEvents_append (es fs : List Event) (s : State) :
    applyEvents (es ++ fs) s = applyEvents fs (applyEvents es s) := List.foldl_append

@[simp] theorem applyEvents_pulseEvents (l : Line) (s : State) : applyEvents (pulseEvents l) s = pulse l s := rfl

@[simp] theorem applyEvents_shiftBitEvents (b : Bool) (s : State) :
    applyEvents (shiftBitEvents b) s = shiftBit b s := rfl

/-- The 24 events of a pattern do to lines and chain what `shiftDigit_eq` says of SHIFT_DIGIT, and touch no register. -/
@[simp] theorem applyEvents_shiftDigitEvents (p : Pattern) (s : State) :
    applyEvents (shiftDigitEvents p) s =
      { s with clk := true, dat := p.getLsbD 0, storage := pushed p s.storage } := by
  have hs : (shiftDigit p s).storage = pushed p s.storage := by rw [shiftDigit_eq]
  simp only [← hs]
  simp [shiftDigitEvents, shiftDigit, countShift, shiftBits, shiftBit_eq, State.currentBit, loadPattern]

/-! ## The digits of RENDER (42_number_renderer.md R161, R162) -/

theorem renderedDigit_zero (m : Magnitude) : renderedDigit m 0 = unitsDigit m := by
  simp [renderedDigit, unitsDigit]

theorem divTen_toNat (m : Magnitude) : (divTen m).toNat = m.toNat / 10 := by
  have := m.isLt
  simp only [divTen, BitVec.toNat_ofNat]
  omega

theorem renderedDigit_succ (m : Magnitude) (k : Nat) : renderedDigit m (k + 1) = renderedDigit (divTen m) k := by
  simp [renderedDigit, divTen_toNat, Nat.div_div_eq_div_mul, Nat.pow_succ']

/-- RENDER's event list in the terms of its loop: the units digit of what is left, four times, then the latch pulse. -/
theorem commandEvents_render (p : SegPos) (m : Magnitude) :
    commandEvents p (.render m) =
      shiftDigitEvents (digitPattern p (unitsDigit m)) ++
      shiftDigitEvents (digitPattern p (unitsDigit (divTen m))) ++
      shiftDigitEvents (digitPattern p (unitsDigit (divTen (divTen m)))) ++
      shiftDigitEvents (digitPattern p (unitsDigit (divTen (divTen (divTen m))))) ++
      pulseEvents .lat := by
  simp [commandEvents, List.range_succ, renderedDigit_zero, renderedDigit_succ]

/-! ## A command and its events -/

/-- Two states agree on the three lines and on the chain's two stages. -/
def sameLinesAndChain (t u : State) : Prop :=
  t.clk = u.clk ∧ t.dat = u.dat ∧ t.lat = u.lat ∧ t.storage = u.storage ∧ t.output = u.output

theorem shiftDigit_sameLinesAndChain (p : Pattern) (s : State) :
    sameLinesAndChain (toIdle (shiftDigit p s)) (applyEvents (shiftDigitEvents p) s) := by
  simp [sameLinesAndChain, shiftDigit_eq, toIdle]

theorem latchPulse_sameLinesAndChain (s : State) :
    sameLinesAndChain (toIdle (latchPulse s)) (applyEvents (pulseEvents .lat) s) := by
  simp [sameLinesAndChain, latchPulse_eq, pulse_lat, toIdle]

/-- Each operation of RENDER is replaced by its one update; what is left to see is that the loop's digits are those of
`commandEvents_render`. -/
theorem render_sameLinesAndChain (m : Magnitude) (s : State) :
    sameLinesAndChain
      (toIdle (latchPulse (renderDigit 3 (renderDigit 2 (renderDigit 1 (renderDigit 0 { s with mag := m }))))))
      (applyEvents (commandEvents s.segPos (.render m)) s) := by
  rw [commandEvents_render]
  simp [sameLinesAndChain, latchPulse_eq, pulse_lat, renderDigit_eq, State.unitsPattern, toIdle]

theorem exec_sameLinesAndChain_applyEvents (i : Instr) (s : State) :
    ∃ t, exec i s = .next t ∧ sameLinesAndChain t (applyEvents (commandEvents s.segPos i) s) := by
  cases i with
  | nop => exact ⟨s, rfl, rfl, rfl, rfl, rfl, rfl⟩
  | shiftp pattern => exact ⟨_, rfl, shiftDigit_sameLinesAndChain pattern s⟩
  | shiftg gcode dp => exact ⟨_, rfl, shiftDigit_sameLinesAndChain (enc s.segPos gcode dp) s⟩
  | latch => exact ⟨_, rfl, latchPulse_sameLinesAndChain s⟩
  | render m => exact ⟨_, rfl, render_sameLinesAndChain m s⟩

end Sys2Proof.Machine

/-! ## The obligations -/

open Sys2Proof Sys2Proof.Machine

/-- Settles O13: by induction on the set each bit is the membership test, since positions are distinct; and eight
distinct positions reach all eight. -/
theorem patternBitsNameTheLitSegments : Obligations.PatternBitsNameTheLitSegments :=
  fun p => ⟨getLsbD_pat p, pos_surjective p⟩

/-- Settles O30: by cases on the command, each shared operation and its events making the same update. -/
theorem commandIsItsEventsInOrder : Obligations.CommandIsItsEventsInOrder := by
  intro i s
  obtain ⟨t, ht, hsame⟩ := exec_sameLinesAndChain_applyEvents i s
  exact ⟨t, applyEvents (commandEvents s.segPos i) s, ht, rfl, hsame⟩

end

section
/-! PROOFS. What one event and one step can do, said once as case predicates; a command as the run of all its events;
and the registers of the sequencer kept in step with its position (O49). -/

namespace Sys2Proof.Machine

open Sys2Proof.Safety

/-! ## One event, by position (10_state.md R22, R23) -/

theorem with_phase_eq_self {s : State} {p : Phase} (h : s.phase = p) : { s with phase := p } = s := by rw [← h]

/-- What one event does at each position of the sequencer: `TickCase s t` holds of `t = tick s` alone. -/
inductive TickCase (s : State) : State → Prop
  | idle (hp : s.phase = .idle) : TickCase s s
  | shift (k : Fin 24) (hp : s.phase = .shifting k) : TickCase s
      { shiftTick k.val s with phase := if h : k.val + 1 < 24 then .shifting ⟨k.val + 1, h⟩ else .idle }
  | latchLow (hp : s.phase = .latching 0) : TickCase s { drive .lat false (checkLatch s) with phase := .latching 1 }
  | latchHigh (hp : s.phase = .latching 1) : TickCase s (toIdle (clearPending (drive .lat true s)))
  | renderShift (k : Fin 98) (hp : s.phase = .rendering k) (hk : k.val < 96) : TickCase s
      { (let u := shiftTick (k.val % 24) (if k.val % 24 = 0 then loadDigit (k.val / 24) s else s)
         if k.val % 24 = 23 then divideMag u else u) with phase := .rendering ⟨k.val + 1, by omega⟩ }
  | renderLatchLow (hp : s.phase = .rendering 96) : TickCase s
      { drive .lat false (checkLatch s) with phase := .rendering 97 }
  | renderLatchHigh (hp : s.phase = .rendering 97) : TickCase s (toIdle (clearPending (drive .lat true s)))

theorem tickCase_tick (s : State) : TickCase s (tick s) := by
  have at_phase {p : Phase} {t : State} (hp : s.phase = p) (ht : tick { s with phase := p } = t) : tick s = t := by
    rwa [with_phase_eq_self hp] at ht
  cases hp : s.phase with
  | idle => rw [tick_idle s hp]; exact .idle hp
  | shifting k => rw [at_phase hp (tick_shifting s k)]; exact .shift k hp
  | latching k =>
    obtain rfl | rfl : k = 0 ∨ k = 1 := by omega
    · rw [at_phase hp (tick_latching_first s)]; exact .latchLow hp
    · rw [at_phase hp (tick_latching_last s)]; exact .latchHigh hp
  | rendering k =>
    obtain hk | rfl | rfl : k.val < 96 ∨ k = 96 ∨ k = 97 := by omega
    · rw [at_phase hp (tick_rendering s k hk)]; exact .renderShift k hp hk
    · rw [at_phase hp (tick_rendering_latch_first s)]; exact .renderLatchLow hp
    · rw [at_phase hp (tick_rendering_latch_last s)]; exact .renderLatchHigh hp

/-! ## One event of a SHIFT_DIGIT (41_display_driver.md R132, R133) -/

theorem shiftTick_of_mod_zero {j : Nat} (hj : j % 3 = 0) (s : State) :
    shiftTick j s = { s with dat := s.currentBit } := by
  simp [shiftTick, shiftEvent, afterShiftEvent, applyEvent, drive_dat, hj, show j ≠ 23 by omega]

theorem shiftTick_of_mod_one {j : Nat} (hj : j % 3 = 1) (s : State) : shiftTick j s = { s with clk := false } := by
  simp [shiftTick, shiftEvent, afterShiftEvent, applyEvent, drive_low, State.setLevel, hj, show j ≠ 23 by omega]

theorem drive_clk_frame (v : Bool) (s : State) : ∃ c st, drive .clk v s = { s with clk := c, storage := st } := by
  rcases applyEvent_cases ⟨.clk, v⟩ s with ⟨_, _, h⟩ | ⟨⟨⟩, _⟩ | h
  · exact ⟨_, _, h⟩
  · exact ⟨_, _, h⟩

/-- The CLK rise of every bit but the last moves BITIDX to the next bit. -/
theorem shiftTick_of_mod_two {j : Nat} (hj : j % 3 = 2) (hlast : j ≠ 23) (s : State) :
    ∃ c st, shiftTick j s = { s with clk := c, storage := st, bitIdx := s.bitIdx - 1 } := by
  obtain ⟨c, st, hd⟩ := drive_clk_frame true s
  exact ⟨c, st, by simp [shiftTick, shiftEvent, afterShiftEvent, applyEvent, hj, hlast, hd]⟩

theorem shiftTick_last (s : State) :
    ∃ c st, shiftTick 23 s = { s with clk := c, storage := st, pending := s.pending + 1 } := by
  obtain ⟨c, st, hd⟩ := drive_clk_frame true s
  exact ⟨c, st, by simp [shiftTick, shiftEvent, afterShiftEvent, applyEvent, hd, countShift]⟩

/-- An event of a SHIFT_DIGIT changes CLK, DAT, BITIDX, PENDING and S only. -/
theorem shiftTick_frame (j : Nat) (s : State) : ∃ c d b p st,
    shiftTick j s = { s with clk := c, dat := d, bitIdx := b, pending := p, storage := st } := by
  obtain h0 | h1 | h2 : j % 3 = 0 ∨ j % 3 = 1 ∨ j % 3 = 2 := by omega
  · exact ⟨_, _, _, _, _, shiftTick_of_mod_zero h0 s⟩
  · exact ⟨_, _, _, _, _, shiftTick_of_mod_one h1 s⟩
  · by_cases hlast : j = 23
    · subst hlast
      obtain ⟨c, st, h⟩ := shiftTick_last s
      exact ⟨_, _, _, _, _, h⟩
    · obtain ⟨c, st, h⟩ := shiftTick_of_mod_two h2 hlast s
      exact ⟨_, _, _, _, _, h⟩

@[simp] theorem shiftTick_lat (j : Nat) (s : State) : (shiftTick j s).lat = s.lat := by
  obtain ⟨_, _, _, _, _, h⟩ := shiftTick_frame j s; rw [h]
@[simp] theorem shiftTick_sr (j : Nat) (s : State) : (shiftTick j s).sr = s.sr := by
  obtain ⟨_, _, _, _, _, h⟩ := shiftTick_frame j s; rw [h]
@[simp] theorem shiftTick_digIdx (j : Nat) (s : State) : (shiftTick j s).digIdx = s.digIdx := by
  obtain ⟨_, _, _, _, _, h⟩ := shiftTick_frame j s; rw [h]
@[simp] theorem shiftTick_unitsPattern (j : Nat) (s : State) : (shiftTick j s).unitsPattern = s.unitsPattern := by
  obtain ⟨_, _, _, _, _, h⟩ := shiftTick_frame j s; rw [h]; rfl
@[simp] theorem shiftTick_faults (j : Nat) (s : State) : (shiftTick j s).faults = s.faults := by
  obtain ⟨_, _, _, _, _, h⟩ := shiftTick_frame j s; rw [h]
@[simp] theorem shiftTick_output (j : Nat) (s : State) : (shiftTick j s).output = s.output := by
  obtain ⟨_, _, _, _, _, h⟩ := shiftTick_frame j s; rw [h]

/-! ## One step, by what happens at its boundary (10_state.md R21, R23; 60_exceptions.md R202) -/

/-- `runEvents_rendering_digit` between any two positions 24 events apart. -/
theorem runEvents_renderDigit (q : Nat) (k k' : Fin 98) (hq : q < 4) (hk : k.val = 24 * q) (hk' : k'.val = 24 * q + 24)
    (s : State) :
    runEvents 24 { s with phase := .rendering k } = { renderDigit q s with phase := .rendering k' } := by
  obtain ⟨k, _⟩ := k
  obtain ⟨k', _⟩ := k'
  obtain rfl : k = 24 * q := hk
  obtain rfl : k' = 24 * q + 24 := hk'
  exact runEvents_rendering_digit s q hq

/-- RENDER's 98 events are four turns of its loop and its LATCH_PULSE (42_number_renderer.md R161). -/
theorem runEvents_render (s : State) :
    runEvents 98 { s with phase := .rendering 0 } =
      toIdle (latchPulse (renderDigit 3 (renderDigit 2 (renderDigit 1 (renderDigit 0 s))))) := by
  have parts (u : State) :
      runEvents 98 u = runEvents 2 (runEvents 24 (runEvents 24 (runEvents 24 (runEvents 24 u)))) := by
    simp only [← runEvents_add]
  rw [parts, runEvents_renderDigit 0 0 24 (by omega) rfl rfl, runEvents_renderDigit 1 24 48 (by omega) rfl rfl,
    runEvents_renderDigit 2 48 72 (by omega) rfl rfl, runEvents_renderDigit 3 72 96 (by omega) rfl rfl,
    runEvents_rendering_latch]

/-- The 24 events of SHIFTP or SHIFTG are its SHIFT_DIGIT (41_display_driver.md R133). -/
theorem runEvents_shift (p : Pattern) (s : State) :
    runEvents 24 { loadPattern p s with phase := .shifting 0 } = toIdle (shiftDigit p s) := by
  rw [← shiftTicks_digit]
  exact runEvents_shifting 24 (loadPattern p s) 0 (by omega) (by omega)

/-- `exec` is the run of all the command's events. -/
theorem exec_eq_runEvents (i : Instr) (s : State) :
    exec i s = .next (runEvents (eventCount i) (beginCommand i s)) := by
  cases i with
  | nop => rfl
  | shiftp pattern => exact congrArg Host.Outcome.next (runEvents_shift pattern s).symm
  | shiftg gcode dp => exact congrArg Host.Outcome.next (runEvents_shift _ s).symm
  | latch => exact congrArg Host.Outcome.next (runEvents_latching s).symm
  | render m => exact congrArg Host.Outcome.next (runEvents_render { s with mag := m }).symm

/-- What a step can lead to, with an acceptance as a run of some of the command's events (log 4). -/
inductive StepCase (s : State) : State → Prop
  | reset (hr : s.rst = true) : StepCase s (blockReset s)
  | resetMove (hr : s.rst = true) (m : HostMove) (rest : List HostMove) (hh : s.host = m :: rest) :
      StepCase s (m.land { blockReset s with host := rest })
  | command (hr : s.rst = false) (ha : s.accepts = true) (n : Nat) :
      StepCase s (runEvents n (beginCommand s.offered s.accept))
  | move (m : HostMove) (rest : List HostMove) (hh : s.host = m :: rest) :
      StepCase s (m.land { s with host := rest })
  | event (hr : s.rst = false) : StepCase s (tick s)

theorem stepCase_of_step {s t : State} (h : step s = .next t) : StepCase s t := by
  have next_eq {u : State} (hu : step s = .next u) : u = t := Host.Outcome.next.inj (hu.symm.trans h)
  obtain ⟨hr, -, hs⟩ | ⟨hr, m, rest, hh, -, hs⟩ | ⟨hr, ha, -, hs⟩ | ⟨hr, ha, n, -, hs⟩ | ⟨-, -, m, rest, hh, -, hs⟩ |
    ⟨hr, -, -, hs⟩ := step_cases s
  · obtain rfl := next_eq hs; exact .reset hr
  · obtain rfl := next_eq hs; exact .resetMove hr m rest hh
  · obtain rfl := next_eq (hs.trans (exec_eq_runEvents _ _)); exact .command hr ha _
  · obtain rfl := next_eq hs; exact .command hr ha n
  · obtain rfl := next_eq hs; exact .move m rest hh
  · obtain rfl := next_eq hs; exact .event hr

theorem accepts_iff (s : State) : s.accepts = true ↔ s.cmdValid = true ∧ s.phase = .idle := by
  simp [State.accepts, State.cmdReady]

theorem phase_accept {s : State} (h : s.accepts = true) : s.accept.phase = .idle := ((accepts_iff s).mp h).2

/-! ## The sequencer's registers and its position (10_state.md R22, R23; 42_number_renderer.md R161) -/

/-- An event of a SHIFT_DIGIT keeps `shiftAt`: DAT takes the bit, CLK falls, and its rise moves BITIDX on. -/
theorem shiftTick_keeps_shiftAt {j : Nat} {s : State} (hj : j + 1 < 24) (h : shiftAt j s) :
    shiftAt (j + 1) (shiftTick j s) := by
  obtain ⟨hbit, hdat, hclk⟩ := h
  obtain h0 | h1 | h2 : j % 3 = 0 ∨ j % 3 = 1 ∨ j % 3 = 2 := by omega
  · rw [shiftTick_of_mod_zero h0]
    exact ⟨hbit.trans (by omega), fun _ => rfl, fun _ => by omega⟩
  · rw [shiftTick_of_mod_one h1]
    exact ⟨hbit.trans (by omega), fun _ => hdat (by omega), fun _ => rfl⟩
  · obtain ⟨c, st, ht⟩ := shiftTick_of_mod_two h2 (by omega) s
    rw [ht]
    refine ⟨?_, fun _ => by omega, fun _ => by omega⟩
    have hnext : (s.bitIdx - 1).toNat = s.bitIdx.toNat - 1 := by
      have : 1 ≤ s.bitIdx.toNat := by omega
      bv_omega
    exact hnext.trans (by omega)

/-- The registers inside RENDER's digits: those of the SHIFT_DIGIT, and DIGIDX and SR of the digit. -/
def renderAt (k : Nat) (s : State) : Prop :=
  shiftAt (k % 24) s ∧ s.digIdx.toNat = k / 24 ∧ s.sr = s.unitsPattern

theorem renderAt_loadDigit {k : Nat} (h0 : k % 24 = 0) (hk : k < 96) (s : State) :
    renderAt k (loadDigit (k / 24) s) := by
  have hdig : (BitVec.ofNat 2 (k / 24)).toNat = k / 24 := by
    rw [BitVec.toNat_ofNat]; omega
  rw [renderAt, h0]
  exact ⟨⟨rfl, fun h => absurd rfl h, fun h => absurd h (by decide)⟩, hdig, rfl⟩

theorem shiftTick_keeps_renderAt {k : Nat} {s : State} (hk : k % 24 ≠ 23) (h : renderAt k s) :
    renderAt (k + 1) (shiftTick (k % 24) s) := by
  obtain ⟨hshift, hdig, hsr⟩ := h
  refine ⟨?_, ?_, ?_⟩
  · rw [show (k + 1) % 24 = k % 24 + 1 by omega]
    exact shiftTick_keeps_shiftAt (by omega) hshift
  · rw [shiftTick_digIdx, hdig]; omega
  · rw [shiftTick_sr, shiftTick_unitsPattern, hsr]

/-! `sequencerConsistent`, phase by phase. -/

theorem sequencerConsistent_of_idle {s : State} (hp : s.phase = .idle) : sequencerConsistent s := by
  simp [sequencerConsistent, hp]

theorem sequencerConsistent_shifting {s : State} {k : Fin 24} (hp : s.phase = .shifting k) :
    sequencerConsistent s ↔ shiftAt k.val s := by
  simp [sequencerConsistent, hp]

theorem sequencerConsistent_latching {s : State} {k : Fin 2} (hp : s.phase = .latching k) :
    sequencerConsistent s ↔ (k.val = 1 → s.lat = false) := by
  simp [sequencerConsistent, hp]

theorem sequencerConsistent_rendering {s : State} {k : Fin 98} (hp : s.phase = .rendering k) :
    sequencerConsistent s ↔
      (k.val < 96 → k.val % 24 ≠ 0 → renderAt k.val s) ∧ (k.val = 97 → s.lat = false) := by
  simp [sequencerConsistent, hp, renderAt]

theorem sequencerConsistent_beginCommand {i : Instr} {s : State} (hp : s.phase = .idle) :
    sequencerConsistent (beginCommand i s) := by
  have loaded (p : Pattern) : shiftAt 0 { loadPattern p s with phase := .shifting 0 } :=
    ⟨rfl, fun h => absurd rfl h, fun h => absurd h (by decide)⟩
  cases i with
  | nop => exact sequencerConsistent_of_idle hp
  | shiftp pattern => exact (sequencerConsistent_shifting rfl).mpr (loaded pattern)
  | shiftg gcode dp => exact (sequencerConsistent_shifting rfl).mpr (loaded _)
  | latch => exact (sequencerConsistent_latching rfl).mpr fun h => absurd h (by decide)
  | render m =>
    exact (sequencerConsistent_rendering rfl).mpr ⟨fun _ h => absurd rfl h, fun h => absurd h (by decide)⟩

theorem tick_keeps_sequencerConsistent {s : State} (h : sequencerConsistent s) : sequencerConsistent (tick s) := by
  have hcase := tickCase_tick s
  generalize tick s = t at hcase ⊢
  cases hcase with
  | idle hp => exact h
  | shift k hp =>
    rw [sequencerConsistent_shifting hp] at h
    by_cases hk : k.val + 1 < 24
    · refine (sequencerConsistent_shifting (dif_pos hk)).mpr ?_
      exact shiftTick_keeps_shiftAt hk h
    · exact sequencerConsistent_of_idle (dif_neg hk)
  | latchLow hp => exact (sequencerConsistent_latching rfl).mpr fun _ => by rw [drive_low]; rfl
  | latchHigh hp => exact sequencerConsistent_of_idle rfl
  | renderShift k hp hk =>
    obtain ⟨hrender, -⟩ := (sequencerConsistent_rendering hp).mp h
    refine (sequencerConsistent_rendering rfl).mpr ⟨fun _ hmod => ?_, fun h97 => ?_⟩
    · have h23 : k.val % 24 ≠ 23 := by simp only at hmod; omega
      have hat : renderAt k.val (if k.val % 24 = 0 then loadDigit (k.val / 24) s else s) := by
        split
        case isTrue h0 => exact renderAt_loadDigit h0 hk s
        case isFalse h0 => exact hrender hk h0
      rw [if_neg h23]
      exact shiftTick_keeps_renderAt h23 hat
    · simp only at h97; omega
  | renderLatchLow hp =>
    exact (sequencerConsistent_rendering rfl).mpr
      ⟨fun hlt => absurd hlt (by decide), fun _ => by rw [drive_low]; rfl⟩
  | renderLatchHigh hp => exact sequencerConsistent_of_idle rfl

/-- What every event keeps, a run of events keeps. -/
theorem runEvents_keeps {P : State → Prop} (htick : ∀ s, P s → P (tick s)) (n : Nat) {s : State} (h : P s) :
    P (runEvents n s) := by
  induction n generalizing s with
  | zero => exact h
  | succ n ih => exact ih (htick s h)

/-- No move of the host but the power cycle, which leaves the block IDLE, touches a register of the sequencer. -/
theorem land_keeps_sequencerConsistent (m : HostMove) {s : State} (h : sequencerConsistent s) :
    sequencerConsistent (m.land s) := by
  cases m with
  | powerCycle => exact sequencerConsistent_of_idle rfl
  | offer word pause => exact h
  | driveRst level => exact h
  | encoderPort code dp => exact h

theorem stepCase_keeps_sequencerConsistent {s t : State} (h : sequencerConsistent s) (hst : StepCase s t) :
    sequencerConsistent t := by
  cases hst with
  | reset => exact sequencerConsistent_of_idle rfl
  | resetMove _ m rest => exact land_keeps_sequencerConsistent m (sequencerConsistent_of_idle rfl)
  | command hr ha n =>
    exact runEvents_keeps (P := sequencerConsistent) (fun _ => tick_keeps_sequencerConsistent) n
      (sequencerConsistent_beginCommand (phase_accept ha))
  | move m rest => exact land_keeps_sequencerConsistent m h
  | event => exact tick_keeps_sequencerConsistent h

end Sys2Proof.Machine

open Sys2Proof Sys2Proof.Machine Sys2Proof.Safety

/-- Settles O49: each event keeps the registers in step with the position; a reset or an acceptance starts them so. -/
theorem stepKeepsTheSequencerConsistent : Obligations.StepKeepsTheSequencerConsistent :=
  fun _ _ hs hst => stepCase_keeps_sequencerConsistent hs (stepCase_of_step hst)

end

section
/-! PROOFS. What steps keep: the output stage (O45), the fault list (O46), SEG_POS (O47); both invariants at reset
(O51); and what a cell shows (O19). -/

namespace Sys2Proof.Machine

open Sys2Proof.Safety

/-! ## The output stage (10_state.md R29, R30; 20_memory.md R58) -/

/-- The two phases with a LATCH_PULSE among their events. -/
def Phase.hasLatch (p : Phase) : Prop := (∃ k, p = .latching k) ∨ ∃ k, p = .rendering k

theorem drive_lat_high_cases (s : State) :
    drive .lat true s = { s with lat := true } ∨ drive .lat true s = { s with lat := true, output := s.storage } := by
  obtain ⟨⟨⟩, _⟩ | ⟨_, _, h⟩ | h := applyEvent_cases ⟨.lat, true⟩ s
  · exact .inr h
  · exact .inl h

@[simp] theorem checkLatch_output (s : State) : (checkLatch s).output = s.output := by
  obtain ⟨_, h⟩ := checkLatch_frame s; rw [h]

/-- Only the LAT rise that ends a LATCH or RENDER changes O. -/
theorem tick_output (s : State) :
    (tick s).output = s.output ∨
      (s.phase.hasLatch ∧ (tick s).phase = .idle ∧ (tick s).output = (tick s).storage) := by
  have rise : (toIdle (clearPending (drive .lat true s))).output = s.output ∨
      (toIdle (clearPending (drive .lat true s))).output = (toIdle (clearPending (drive .lat true s))).storage := by
    obtain h | h := drive_lat_high_cases s
    · rw [h]; exact .inl rfl
    · rw [h]; exact .inr rfl
  have hcase := tickCase_tick s
  generalize tick s = t at hcase ⊢
  cases hcase with
  | idle hp => exact .inl rfl
  | shift k hp => exact .inl (shiftTick_output k.val s)
  | latchLow hp => left; simp [drive_low]
  | latchHigh hp => exact rise.imp_right fun h => ⟨.inl ⟨_, hp⟩, rfl, h⟩
  | renderShift k hp hk => left; split <;> split <;> simp [loadDigit, divideMag]
  | renderLatchLow hp => left; simp [drive_low]
  | renderLatchHigh hp => exact rise.imp_right fun h => ⟨.inr ⟨_, hp⟩, rfl, h⟩

theorem hasLatch_of_tick {s : State} (h : (tick s).phase.hasLatch) : s.phase.hasLatch := by
  have hcase := tickCase_tick s
  generalize tick s = t at hcase h
  cases hcase with
  | idle hp => exact h
  | shift k hp => by_cases hk : k.val + 1 < 24 <;> simp [Phase.hasLatch, hk] at h
  | latchLow hp => exact .inl ⟨_, hp⟩
  | latchHigh hp => exact .inl ⟨_, hp⟩
  | renderShift k hp hk => exact .inr ⟨_, hp⟩
  | renderLatchLow hp => exact .inr ⟨_, hp⟩
  | renderLatchHigh hp => exact .inr ⟨_, hp⟩

theorem runEvents_output (n : Nat) (s : State) :
    (runEvents n s).output = s.output ∨
      (s.phase.hasLatch ∧ (runEvents n s).output = (runEvents n s).storage) := by
  induction n generalizing s with
  | zero => exact .inl rfl
  | succ n ih =>
    rw [runEvents]
    obtain hkept | ⟨hlatch, hidle, hcopied⟩ := tick_output s
    · rw [← hkept]
      exact (ih (tick s)).imp_right fun ⟨hlatch, hcopied⟩ => ⟨hasLatch_of_tick hlatch, hcopied⟩
    · rw [runEvents_idle n _ hidle]
      exact .inr ⟨hlatch, hcopied⟩

theorem hasLatch_beginCommand {i : Instr} {s : State} (hs : s.phase = .idle)
    (h : (beginCommand i s).phase.hasLatch) : i = .latch ∨ ∃ m, i = .render m := by
  cases i with
  | nop => simp [Phase.hasLatch, beginCommand, hs] at h
  | shiftp pattern => simp [Phase.hasLatch, beginCommand] at h
  | shiftg gcode dp => simp [Phase.hasLatch, beginCommand] at h
  | latch => exact .inl rfl
  | render m => exact .inr ⟨m, rfl⟩

@[simp] theorem beginCommand_output (i : Instr) (s : State) : (beginCommand i s).output = s.output := by
  obtain ⟨_, _, _, _, h⟩ := beginCommand_frame i s; rw [h]

@[simp] theorem blockReset_output (s : State) : (blockReset s).output = s.output := by
  rw [blockReset_eq]; rfl

/-- A move keeps O unless it is the power cycle, after which O and S are both unknown. -/
theorem land_output (m : HostMove) (s : State) :
    (m.land s).output = s.output ∨ (m = .powerCycle ∧ (m.land s).output = (m.land s).storage) := by
  cases m with
  | powerCycle => exact .inr ⟨rfl, rfl⟩
  | offer word pause => exact .inl rfl
  | driveRst level => exact .inl rfl
  | encoderPort code dp => exact .inl rfl

/-- A LATCH or RENDER is accepted or in progress at a boundary with RST LOW. -/
def latchAtWork (s : State) : Prop :=
  s.rst = false ∧
    ((s.accepts = true ∧ (decode s.cmd = .latch ∨ ∃ m, decode s.cmd = .render m)) ∨ s.phase.hasLatch)

theorem stepCase_output {s t : State} (h : StepCase s t) :
    t.output = s.output ∨ (t.output = t.storage ∧ (s.host.head? = some .powerCycle ∨ latchAtWork s)) := by
  have landed {u : State} {m rest} (hu : u.output = s.output) (hh : s.host = m :: rest) :
      (m.land u).output = s.output ∨
        ((m.land u).output = (m.land u).storage ∧ (s.host.head? = some .powerCycle ∨ latchAtWork s)) := by
    obtain hkept | ⟨rfl, hboth⟩ := land_output m u
    · exact .inl (hkept.trans hu)
    · exact .inr ⟨hboth, .inl (by rw [hh]; rfl)⟩
  cases h with
  | reset => exact .inl (blockReset_output s)
  | resetMove _ m rest hh => exact landed (blockReset_output s) hh
  | command hr ha n =>
    obtain hkept | ⟨hlatch, hcopied⟩ := runEvents_output n (beginCommand s.offered s.accept)
    · exact .inl (hkept.trans (beginCommand_output _ _))
    · exact .inr ⟨hcopied, .inr ⟨hr, .inl ⟨ha, hasLatch_beginCommand (phase_accept ha) hlatch⟩⟩⟩
  | move m rest hh => exact landed rfl hh
  | event hr =>
    exact (tick_output s).imp_right fun ⟨hlatch, _, hcopied⟩ => ⟨hcopied, .inr ⟨hr, .inr hlatch⟩⟩

/-! ## The fault list (10_state.md R28; 60_exceptions.md R203, R204) -/

/-- `new` is `old` with at most n records added, each of a LATCH_PULSE at another PENDING than 4. -/
def addsRecords (n : Nat) (old new : List FaultRecord) : Prop :=
  ∃ added, new = old ++ added ∧ added.length ≤ n ∧ ∀ r ∈ added, r.kind = .latchCount ∧ r.info ≠ 4

theorem addsRecords_refl (n : Nat) (l : List FaultRecord) : addsRecords n l l := ⟨[], by simp⟩

theorem addsRecords_trans {m n : Nat} {l l' l'' : List FaultRecord} (h : addsRecords m l l')
    (h' : addsRecords n l' l'') : addsRecords (m + n) l l'' := by
  obtain ⟨added, rfl, hlen, hkind⟩ := h
  obtain ⟨added', rfl, hlen', hkind'⟩ := h'
  refine ⟨added ++ added', by simp, by simp; omega, fun r hr => ?_⟩
  exact (List.mem_append.mp hr).elim (hkind r) (hkind' r)

theorem addsRecords_mono {m n : Nat} {l l' : List FaultRecord} (hmn : m ≤ n) (h : addsRecords m l l') :
    addsRecords n l l' := by
  obtain ⟨added, hl, hlen, hkind⟩ := h
  exact ⟨added, hl, hlen.trans hmn, hkind⟩

theorem checkLatch_addsRecords (s : State) : addsRecords 1 s.faults (checkLatch s).faults := by
  unfold checkLatch
  split
  case isTrue => exact addsRecords_refl 1 _
  case isFalse hpending => exact ⟨[⟨.latchCount, s.pending, s.accepted⟩], rfl, le_rfl, by simp [hpending]⟩

/-- The contract checks that the command in progress has still to make: one before its LATCH_PULSE. -/
def checksLeft : Phase → Nat
  | .idle => 0
  | .shifting _ => 0
  | .latching k => if k.val = 0 then 1 else 0
  | .rendering k => if k.val ≤ 96 then 1 else 0

theorem checksLeft_le_one (p : Phase) : checksLeft p ≤ 1 := by
  cases p with
  | idle => exact Nat.zero_le 1
  | shifting k => exact Nat.zero_le 1
  | latching k => rw [checksLeft]; split <;> omega
  | rendering k => rw [checksLeft]; split <;> omega

/-- An event adds a record only where it makes a check, and then one check less is left. -/
theorem tick_addsRecords (s : State) :
    ∃ n, addsRecords n s.faults (tick s).faults ∧ n + checksLeft (tick s).phase ≤ checksLeft s.phase := by
  have rise : (toIdle (clearPending (drive .lat true s))).faults = s.faults := by
    obtain h | h := drive_lat_high_cases s <;> rw [h] <;> rfl
  have none_added {l : List FaultRecord} (h : l = s.faults) : addsRecords 0 s.faults l := h ▸ addsRecords_refl 0 _
  have hcase := tickCase_tick s
  generalize tick s = t at hcase ⊢
  cases hcase with
  | idle hp => exact ⟨0, addsRecords_refl 0 _, by omega⟩
  | shift k hp =>
    refine ⟨0, none_added (shiftTick_faults k.val s), ?_⟩
    by_cases hk : k.val + 1 < 24 <;> simp [hp, hk, checksLeft]
  | latchLow hp => exact ⟨1, by simpa [drive_low] using checkLatch_addsRecords s, by simp [hp, checksLeft]⟩
  | latchHigh hp => exact ⟨0, none_added rise, by simp [hp, checksLeft]⟩
  | renderShift k hp hk =>
    refine ⟨0, none_added ?_, ?_⟩
    · split <;> split <;> simp [loadDigit, divideMag]
    · simp [hp, checksLeft, show k.val ≤ 96 by omega, show k.val + 1 ≤ 96 by omega]
  | renderLatchLow hp => exact ⟨1, by simpa [drive_low] using checkLatch_addsRecords s, by simp [hp, checksLeft]⟩
  | renderLatchHigh hp => exact ⟨0, none_added rise, by simp [hp, checksLeft]⟩

theorem runEvents_addsRecords (n : Nat) (s : State) :
    addsRecords (checksLeft s.phase) s.faults (runEvents n s).faults := by
  induction n generalizing s with
  | zero => exact addsRecords_refl _ _
  | succ n ih =>
    obtain ⟨m, htick, hleft⟩ := tick_addsRecords s
    exact addsRecords_mono hleft (addsRecords_trans htick (ih (tick s)))

@[simp] theorem beginCommand_faults (i : Instr) (s : State) : (beginCommand i s).faults = s.faults := by
  obtain ⟨_, _, _, _, h⟩ := beginCommand_frame i s; rw [h]

theorem land_faults (m : HostMove) (s : State) :
    (m.land s).faults = s.faults ∨ (m = .powerCycle ∧ (m.land s).faults = []) := by
  cases m with
  | powerCycle => exact .inr ⟨rfl, rfl⟩
  | offer word pause => exact .inl rfl
  | driveRst level => exact .inl rfl
  | encoderPort code dp => exact .inl rfl

theorem stepCase_faults {s t : State} (h : StepCase s t) :
    addsRecords 1 s.faults t.faults ∨ ((s.rst = true ∨ s.host.head? = some .powerCycle) ∧ t.faults = []) := by
  cases h with
  | reset hr => exact .inr ⟨.inl hr, rfl⟩
  | resetMove hr m rest =>
    refine .inr ⟨.inl hr, ?_⟩
    obtain hkept | ⟨-, hempty⟩ := land_faults m { blockReset s with host := rest }
    · exact hkept
    · exact hempty
  | command _ _ n =>
    have hrun := runEvents_addsRecords n (beginCommand s.offered s.accept)
    rw [beginCommand_faults] at hrun
    exact .inl (addsRecords_mono (checksLeft_le_one _) hrun)
  | move m rest hh =>
    obtain hkept | ⟨rfl, hempty⟩ := land_faults m { s with host := rest }
    · left; rw [hkept]; exact addsRecords_refl 1 _
    · exact .inr ⟨.inr (by rw [hh]; rfl), hempty⟩
  | event =>
    obtain ⟨n, htick, hleft⟩ := tick_addsRecords s
    have hone := checksLeft_le_one s.phase
    exact .inl (addsRecords_mono (by omega) htick)

/-! ## SEG_POS (00_scope.md R9; 10_state.md R25, R26) -/

@[simp] theorem runEvents_segPos (n : Nat) (s : State) : (runEvents n s).segPos = s.segPos := by
  obtain ⟨_, _, _, _, _, _, _, _, _, _, _, _, h⟩ := runEvents_frame n s; rw [h]

@[simp] theorem beginCommand_segPos (i : Instr) (s : State) : (beginCommand i s).segPos = s.segPos := by
  obtain ⟨_, _, _, _, h⟩ := beginCommand_frame i s; rw [h]

@[simp] theorem blockReset_segPos (s : State) : (blockReset s).segPos = s.segPos := by
  rw [blockReset_eq]; rfl

@[simp] theorem land_segPos (m : HostMove) (s : State) : (m.land s).segPos = s.segPos := by cases m <;> rfl

theorem stepCase_segPos {s t : State} (h : StepCase s t) : t.segPos = s.segPos := by
  cases h with
  | reset => exact blockReset_segPos s
  | resetMove _ m rest => exact (land_segPos m _).trans (blockReset_segPos s)
  | command _ _ n => exact (runEvents_segPos n _).trans (beginCommand_segPos _ _)
  | move m rest => exact land_segPos m _
  | event => exact runEvents_segPos 1 s

/-! ## The pattern a cell shows (10_state.md R29) -/

theorem cellBits_length (v : ChainBits) (k : Fin 4) : (cellBits v k).length = 8 := by simp [cellBits]

theorem packBits_cellBits_eq (v : ChainBits) (k : Fin 4) (n : Nat) :
    packBits (cellBits v k) = some n ↔ n < 256 ∧ ∀ i : Fin 8, v[8 * k.val + i.val] = some (n.testBit i.val) := by
  rw [packBits_eq]
  refine and_congr (by simp [cellBits_length]) ⟨fun h i => ?_, fun h i hi => ?_⟩
  · simpa [cellBits] using h i.val (by rw [cellBits_length]; exact i.isLt)
  · simpa [cellBits] using h ⟨i, by rwa [cellBits_length] at hi⟩

/-- The value of the cell's bits is below 2^8, so the pattern determines it. -/
theorem cellPattern_eq_some (s : State) (k : Fin 4) (p : Pattern) :
    s.cellPattern k = some p ↔ packBits (cellBits s.output k) = some p.toNat := by
  rw [State.cellPattern, Option.map_eq_some_iff]
  constructor
  · rintro ⟨n, hn, rfl⟩
    obtain ⟨hlt, -⟩ := (packBits_cellBits_eq _ _ _).mp hn
    rw [hn, BitVec.toNat_ofNat, Nat.mod_eq_of_lt hlt]
  · exact fun h => ⟨p.toNat, h, by simp⟩

end Sys2Proof.Machine

/-! ## The obligations -/

open Sys2Proof Sys2Proof.Machine Sys2Proof.Safety

/-- Settles O45: a run of events changes O at its last LAT rise only, which only LATCH and RENDER have. -/
theorem onlyALatchChangesTheDisplay : Obligations.OnlyALatchChangesTheDisplay := by
  intro s t hst
  obtain hkept | ⟨hcopied, hcause⟩ := stepCase_output (stepCase_of_step hst)
  · exact ⟨.inl hkept, fun hchanged => absurd hkept hchanged⟩
  · exact ⟨.inr hcopied, fun _ => hcause⟩

/-- Settles O46: a run of events makes at most one contract check, and each check adds at most one record. -/
theorem faultListIsSticky : Obligations.FaultListIsSticky :=
  ⟨rfl, fun _ _ hst => stepCase_faults (stepCase_of_step hst)⟩

/-- Settles O47: no event, acceptance, reset or move of the host writes SEG_POS, and the ROM is a function of it. -/
theorem noStepChangesSegPosOrTheRom : Obligations.NoStepChangesSegPosOrTheRom := by
  intro s t hst
  have hseg := stepCase_segPos (stepCase_of_step hst)
  exact ⟨hseg, fun code => by rw [hseg]⟩

/-- Settles O51: the reset state is IDLE, with PENDING 0. -/
theorem invariantsHoldAtReset : Obligations.InvariantsHoldAtReset :=
  ⟨sequencerConsistent_of_idle rfl, fun _ h => absurd h (Nat.not_lt_zero _)⟩

/-- Settles O19: the eight bits pack to the pattern's number exactly when each is known and is its bit. -/
theorem cellPatternNeedsAllEightBits : Obligations.CellPatternNeedsAllEightBits := by
  intro s k p
  rw [cellPattern_eq_some, packBits_cellBits_eq]
  exact and_iff_right p.isLt

end

section
/-! PROOFS. Steps: acceptance (O33), an event (O34), a move of the host (O36); a command event by event (O31), completed
by steps (O35); and a program offered command by command (O54). -/

namespace Sys2Proof.Machine

open Sys2Proof.Safety

/-! ## One step, by its boundary (10_state.md R21; 60_exceptions.md R202) -/

theorem step_of_rst {s : State} (hr : s.rst = true) : step s = .next (underReset s) := if_pos hr

theorem step_of_accepts {s : State} (hr : s.rst = false) (ha : s.accepts = true) : step s = acceptCommand s := by
  rw [step, hr, ha]; rfl

theorem step_of_not_accepts {s : State} (hr : s.rst = false) (ha : s.accepts = false) : step s = .next (proceed s) := by
  rw [step, hr, ha]; rfl

theorem accepts_eq_false_of_busy {s : State} (hp : s.phase ≠ .idle) : s.accepts = false :=
  Bool.eq_false_iff.mpr fun ha => hp ((accepts_iff s).mp ha).2

theorem accepts_eq_false_of_no_offer {s : State} (hv : s.cmdValid = false) : s.accepts = false := by
  simp [State.accepts, hv]

theorem step_eq_exec {s : State} (hr : s.rst = false) (hv : s.cmdValid = true) (hp : s.phase = .idle)
    (hpause : s.pauseAfter = none) : step s = exec (decode s.cmd) s.accept := by
  rw [step_of_accepts hr ((accepts_iff s).mpr ⟨hv, hp⟩), acceptCommand, hpause]; rfl

theorem step_eq_runEvents {s : State} {n : Nat} (hr : s.rst = false) (hv : s.cmdValid = true) (hp : s.phase = .idle)
    (hpause : s.pauseAfter = some n) :
    step s = .next (runEvents n (beginCommand (decode s.cmd) s.accept)) := by
  rw [step_of_accepts hr ((accepts_iff s).mpr ⟨hv, hp⟩), acceptCommand, hpause]; rfl

theorem proceed_of_no_landing {s : State} (h : ∀ m ∈ s.host.head?, m.canLand s = false) : proceed s = tick s := by
  unfold proceed
  split
  case h_1 => rfl
  case h_2 m rest hh => rw [h m (by simp [hh])]; rfl

theorem proceed_of_landing {s : State} {m : HostMove} {rest : List HostMove} (hh : s.host = m :: rest)
    (hl : m.canLand s = true) : proceed s = m.land { s with host := rest } := by
  simp [proceed, hh, hl]

@[simp] theorem blockReset_host (s : State) : (blockReset s).host = s.host := by rw [blockReset_eq]; rfl

@[simp] theorem canLand_blockReset (m : HostMove) (s : State) : m.canLand (blockReset s) = m.canLand s := by
  rw [blockReset_eq]; cases m <;> rfl

theorem underReset_cons {s : State} {m : HostMove} {rest : List HostMove} (hh : s.host = m :: rest) :
    underReset s = if m.canLand s then m.land { blockReset s with host := rest } else blockReset s := by
  simp [underReset, hh]

/-- A boundary where a move may land, and the state u it lands on: the block-only reset with RST HIGH, else the state as
it is where no command is accepted. -/
def landsOn (s u : State) : Prop := (s.rst = true ∧ u = blockReset s) ∨ (s.rst = false ∧ s.accepts = false ∧ u = s)

theorem step_of_landing {s u : State} {m : HostMove} {rest : List HostMove} (hu : landsOn s u)
    (hh : s.host = m :: rest) (hl : m.canLand s = true) : step s = .next (m.land { u with host := rest }) := by
  obtain ⟨hr, rfl⟩ | ⟨hr, ha, rfl⟩ := hu
  · rw [step_of_rst hr, underReset_cons hh, if_pos hl]
  · rw [step_of_not_accepts hr ha, proceed_of_landing hh hl]

theorem step_of_waiting_under_reset {s : State} {m : HostMove} {rest : List HostMove} (hr : s.rst = true)
    (hh : s.host = m :: rest) (hl : m.canLand s = false) : step s = .next (blockReset s) := by
  rw [step_of_rst hr, underReset_cons hh, hl]; rfl

/-! ## The events of a SHIFT_DIGIT in order (41_display_driver.md R132, R133) -/

/-- Where the position lies inside a SHIFT_DIGIT: the index of its next event. -/
def Phase.digitEvent : Phase → Option Nat
  | .idle => none
  | .shifting k => some k.val
  | .latching _ => none
  | .rendering k => if k.val < 96 then some (k.val % 24) else none

theorem nextEvent_of_digitEvent {s : State} {j : Nat} (h : s.phase.digitEvent = some j) :
    nextEvent s = some (shiftEvent j s) := by
  unfold nextEvent
  cases hp : s.phase with
  | idle => simp [hp, Phase.digitEvent] at h
  | shifting k => simp_all [Phase.digitEvent]
  | latching k => simp [hp, Phase.digitEvent] at h
  | rendering k =>
    rw [hp, Phase.digitEvent] at h
    split at h
    case isTrue hk => simp only [if_pos hk, Option.some.inj h]
    case isFalse => cases h

theorem beforeEvent_shifting {s : State} {k : Fin 24} (hp : s.phase = .shifting k) : beforeEvent s = s := by
  simp [beforeEvent, hp]

theorem beforeEvent_rendering {s : State} {k : Fin 98} (hp : s.phase = .rendering k) (hk : k.val < 96) :
    beforeEvent s = if k.val % 24 = 0 then loadDigit (k.val / 24) s else s := by
  simp [beforeEvent, hp, hk, show k.val ≠ 96 by omega, loadDigit]

/-- Event j of a SHIFT_DIGIT is next, and p is the pattern it emits. -/
def digitAt (p : Pattern) (j : Nat) (s : State) : Prop :=
  s.phase.digitEvent = some j ∧ (beforeEvent s).sr = p ∧ shiftAt j (beforeEvent s)

/-- Past a digit's first event nothing is loaded, so the registers are those of the state itself. -/
theorem digitAt_of_ne_zero {p : Pattern} {j : Nat} {s : State} (hj : j ≠ 0) (hpos : s.phase.digitEvent = some j)
    (hsr : s.sr = p) (hat : shiftAt j s) : digitAt p j s := by
  have hbefore : beforeEvent s = s := by
    cases hp : s.phase with
    | idle => simp [hp, Phase.digitEvent] at hpos
    | shifting k => exact beforeEvent_shifting hp
    | latching k => simp [hp, Phase.digitEvent] at hpos
    | rendering k =>
      rw [hp, Phase.digitEvent] at hpos
      split at hpos
      case isTrue hk => rw [beforeEvent_rendering hp hk, if_neg (by simp only [Option.some.injEq] at hpos; omega)]
      case isFalse => cases hpos
  rw [digitAt, hbefore]
  exact ⟨hpos, hsr, hat⟩

theorem tick_keeps_digitAt {p : Pattern} {j : Nat} {s : State} (hj : j + 1 < 24) (h : digitAt p j s) :
    digitAt p (j + 1) (tick s) := by
  obtain ⟨hpos, hsr, hat⟩ := h
  have hcase := tickCase_tick s
  generalize tick s = t at hcase ⊢
  cases hcase with
  | idle hp => simp [hp, Phase.digitEvent] at hpos
  | shift k hp =>
    obtain rfl : k.val = j := by simpa [hp, Phase.digitEvent] using hpos
    rw [beforeEvent_shifting hp] at hsr hat
    refine digitAt_of_ne_zero (by omega) ?_ ((shiftTick_sr _ s).trans hsr) (shiftTick_keeps_shiftAt hj hat)
    simp [Phase.digitEvent, hj]
  | latchLow hp => simp [hp, Phase.digitEvent] at hpos
  | latchHigh hp => simp [hp, Phase.digitEvent] at hpos
  | renderShift k hp hk =>
    obtain rfl : k.val % 24 = j := by simpa [hp, hk, Phase.digitEvent] using hpos
    rw [beforeEvent_rendering hp hk] at hsr hat
    rw [if_neg (show k.val % 24 ≠ 23 by omega)]
    refine digitAt_of_ne_zero (by omega) ?_ ((shiftTick_sr _ _).trans hsr) (shiftTick_keeps_shiftAt hj hat)
    simp only [Phase.digitEvent, show k.val + 1 < 96 by omega, if_true]
    congr 1; omega
  | renderLatchLow hp => simp [hp, Phase.digitEvent] at hpos
  | renderLatchHigh hp => simp [hp, Phase.digitEvent] at hpos

/-- At position j the event next is the pattern's j-th: 24 events, DAT, CLK low, CLK high for bits 7 down to 0. -/
theorem drop_shiftDigitEvents {j : Nat} {s : State} (hj : j < 24) (h : shiftAt j s) :
    (shiftDigitEvents s.sr).drop j = shiftEvent j s :: (shiftDigitEvents s.sr).drop (j + 1) := by
  obtain ⟨hbit, -⟩ := h
  simp only [shiftEvent, State.currentBit, hbit]
  interval_cases j <;> rfl

theorem eventTrace_of_digitAt {p : Pattern} (n : Nat) {j : Nat} {s : State} (hn : j + n = 24) (h : digitAt p j s) :
    eventTrace n s = (shiftDigitEvents p).drop j := by
  induction n generalizing j s with
  | zero =>
    obtain rfl : j = 24 := hn
    rfl
  | succ n ih =>
    have hrest : eventTrace n (tick s) = (shiftDigitEvents p).drop (j + 1) := by
      by_cases hj : j + 1 < 24
      · exact ih (by omega) (tick_keeps_digitAt hj h)
      · obtain ⟨rfl, rfl⟩ : n = 0 ∧ j = 23 := by omega
        rfl
    obtain ⟨hpos, rfl, hat⟩ := h
    rw [← beforeEvent_phase] at hpos
    rw [eventTrace, nextEvent_of_digitEvent hpos, hrest, drop_shiftDigitEvents (by omega) hat]
    rfl

/-! ## A command event by event (10_state.md R23; 41_display_driver.md R145) -/

theorem eventTrace_add (m n : Nat) (s : State) :
    eventTrace (m + n) s = eventTrace m s ++ eventTrace n (runEvents m s) := by
  induction m generalizing s with
  | zero => simp [eventTrace, runEvents]
  | succ m ih =>
    rw [show m + 1 + n = (m + n) + 1 by omega, eventTrace, eventTrace, runEvents, ih, List.append_assoc]

theorem eventTrace_shift (p : Pattern) (s : State) :
    eventTrace 24 { loadPattern p s with phase := .shifting 0 } = shiftDigitEvents p :=
  eventTrace_of_digitAt 24 (j := 0) rfl ⟨rfl, rfl, rfl, fun h => absurd rfl h, fun h => absurd h (by decide)⟩

theorem eventTrace_renderDigit (q : Nat) (k : Fin 98) (hq : q < 4) (hk : k.val = 24 * q) (s : State) :
    eventTrace 24 { s with phase := .rendering k } = shiftDigitEvents s.unitsPattern := by
  have hlt : k.val < 96 := by omega
  have h0 : k.val % 24 = 0 := by omega
  obtain ⟨hat, -, -⟩ := renderAt_loadDigit h0 hlt { s with phase := .rendering k }
  refine eventTrace_of_digitAt 24 (j := 0) rfl ?_
  rw [digitAt, beforeEvent_rendering rfl hlt, if_pos h0]
  exact ⟨by simp [Phase.digitEvent, hlt, h0], rfl, h0 ▸ hat⟩

theorem eventTrace_latching (s : State) : eventTrace 2 { s with phase := .latching 0 } = pulseEvents .lat := by
  have hnext (k : Fin 2) (u : State) :
      nextEvent (beforeEvent { u with phase := .latching k }) = some (latchEvent k.val) := by
    simp [nextEvent, beforeEvent_phase]
  rw [eventTrace, hnext, tick_latching_first, eventTrace, hnext]
  rfl

theorem eventTrace_rendering_latch (s : State) :
    eventTrace 2 { s with phase := .rendering 96 } = pulseEvents .lat := by
  have hnext (k : Fin 98) (hk : ¬ k.val < 96) (u : State) :
      nextEvent (beforeEvent { u with phase := .rendering k }) = some (latchEvent (k.val - 96)) := by
    simp [nextEvent, beforeEvent_phase, hk]
  rw [eventTrace, hnext 96 (by decide), tick_rendering_latch_first, eventTrace, hnext 97 (by decide)]
  rfl

theorem eventTrace_render (m : Magnitude) (s : State) :
    eventTrace 98 (beginCommand (.render m) s) = commandEvents s.segPos (.render m) := by
  have parts (u : State) : eventTrace 98 u =
      eventTrace 24 u ++ (eventTrace 24 (runEvents 24 u) ++ (eventTrace 24 (runEvents 24 (runEvents 24 u)) ++
        (eventTrace 24 (runEvents 24 (runEvents 24 (runEvents 24 u))) ++
          eventTrace 2 (runEvents 24 (runEvents 24 (runEvents 24 (runEvents 24 u))))))) := by
    simp only [← eventTrace_add]
  have hbegin : beginCommand (.render m) s = { ({ s with mag := m } : State) with phase := .rendering 0 } := rfl
  rw [parts, hbegin, runEvents_renderDigit 0 0 24 (by omega) rfl rfl, runEvents_renderDigit 1 24 48 (by omega) rfl rfl,
    runEvents_renderDigit 2 48 72 (by omega) rfl rfl, runEvents_renderDigit 3 72 96 (by omega) rfl rfl,
    eventTrace_renderDigit 0 0 (by omega) rfl, eventTrace_renderDigit 1 24 (by omega) rfl,
    eventTrace_renderDigit 2 48 (by omega) rfl, eventTrace_renderDigit 3 72 (by omega) rfl,
    eventTrace_rendering_latch, commandEvents_render]
  simp [renderDigit_eq, State.unitsPattern]

theorem eventTrace_beginCommand (i : Instr) (s : State) :
    eventTrace (eventCount i) (beginCommand i s) = commandEvents s.segPos i := by
  cases i with
  | nop => rfl
  | shiftp pattern => exact eventTrace_shift pattern s
  | shiftg gcode dp => exact eventTrace_shift _ s
  | latch => exact eventTrace_latching s
  | render m => exact eventTrace_render m s

/-- n events after its acceptance a command is done exactly if it has no more than n. -/
theorem cmdReady_runEvents_beginCommand (i : Instr) {s : State} (hs : s.phase = .idle) (n : Nat) :
    (runEvents n (beginCommand i s)).cmdReady = true ↔ eventCount i ≤ n := by
  rw [cmdReady_iff, eventsLeft_runEvents, eventsLeft_beginCommand i s hs, Nat.sub_eq_zero_iff_le]

/-! ## Steps that complete a command (60_exceptions.md R200) -/

/-- `Host.Core.run` of the model, at the model's own types. -/
def runSteps (n : Nat) (s : State) : Host.Outcome State Fault Refusal := Host.Core.run core n s

theorem core_run_succ (M : Host.Core) {s t : M.State} (h : M.step s = .next t) (n : Nat) :
    M.run (n + 1) s = M.run n t := by
  rw [Host.Core.run, h]

theorem runSteps_succ {s t : State} (h : step s = .next t) (n : Nat) : runSteps (n + 1) s = runSteps n t :=
  core_run_succ core h n

/-- RST LOW, nothing on offer and no move of the host to come. -/
def leftAlone (s : State) : Prop := s.rst = false ∧ s.cmdValid = false ∧ s.host = []

theorem step_of_leftAlone {s : State} (h : leftAlone s) : step s = .next (tick s) := by
  obtain ⟨hr, hv, hh⟩ := h
  rw [step_of_not_accepts hr (accepts_eq_false_of_no_offer hv), proceed_of_no_landing (by simp [hh])]

/-- The events of a command touch neither the input ports nor the environment's moves. -/
theorem runEvents_keeps_ports (n : Nat) (s : State) :
    (runEvents n s).rst = s.rst ∧ (runEvents n s).cmdValid = s.cmdValid ∧ (runEvents n s).host = s.host ∧
      (runEvents n s).pauseAfter = s.pauseAfter := by
  obtain ⟨_, _, _, _, _, _, _, _, _, _, _, _, h⟩ := runEvents_frame n s
  rw [h]
  exact ⟨rfl, rfl, rfl, rfl⟩

theorem beginCommand_keeps_ports (i : Instr) (s : State) :
    (beginCommand i s).rst = s.rst ∧ (beginCommand i s).cmdValid = s.cmdValid ∧ (beginCommand i s).host = s.host ∧
      (beginCommand i s).pauseAfter = s.pauseAfter := by
  obtain ⟨_, _, _, _, h⟩ := beginCommand_frame i s
  rw [h]
  exact ⟨rfl, rfl, rfl, rfl⟩

theorem runEvents_keeps_leftAlone (n : Nat) {s : State} (h : leftAlone s) : leftAlone (runEvents n s) := by
  obtain ⟨hr, hv, hh, -⟩ := runEvents_keeps_ports n s
  rwa [leftAlone, hr, hv, hh]

theorem runSteps_of_leftAlone (n : Nat) {s : State} (h : leftAlone s) :
    runSteps n s = .next (runEvents n s) := by
  induction n generalizing s with
  | zero => rfl
  | succ n ih => exact (runSteps_succ (step_of_leftAlone h) n).trans (ih (runEvents_keeps_leftAlone 1 h))

theorem runEvents_98_phase (s : State) : (runEvents 98 s).phase = .idle := by
  have hle := eventsLeft_le s.phase
  rw [← eventsLeft_eq_zero, eventsLeft_runEvents]
  omega

theorem eventCount_le (i : Instr) : eventCount i ≤ 98 := by cases i <;> simp [eventCount]

/-- Events beyond a command's last do nothing. -/
theorem exec_eq_runEvents_of_le {i : Instr} {s : State} (hs : s.phase = .idle) {n : Nat} (hn : eventCount i ≤ n) :
    exec i s = .next (runEvents n (beginCommand i s)) := by
  obtain ⟨k, rfl⟩ := Nat.exists_eq_add_of_le hn
  have hdone : (runEvents (eventCount i) (beginCommand i s)).phase = .idle := by
    simpa [State.cmdReady] using (cmdReady_runEvents_beginCommand i hs _).mpr le_rfl
  rw [runEvents_add, runEvents_idle k _ hdone, exec_eq_runEvents]

/-! ## A program offered command by command (20_memory.md R62) -/

theorem decode_encode (i : Instr) : decode (encode i) = i := by
  unfold decode
  rw [opcField_encode]
  cases i with
  | nop => rfl
  | shiftp pattern => exact congrArg Instr.shiftp (patField_encode pattern)
  | shiftg gcode dp => exact congrArg₂ Instr.shiftg (gcodeField_encode gcode dp) (dpField_encode gcode dp)
  | latch => rfl
  | render m => exact congrArg Instr.render (magField_encode m)

/-- No command reads or writes CMD or the environment's moves. -/
theorem exec_with_cmd_host {i : Instr} {s t : State} (h : exec i s = .next t) (c : Word) (moves : List HostMove) :
    exec i { s with cmd := c, host := moves } = .next { t with cmd := c, host := moves } := by
  cases i with
  | nop => obtain rfl := Host.Outcome.next.inj h; rfl
  | shiftp pattern =>
    obtain rfl := Host.Outcome.next.inj h
    simp [exec, execShiftp, shiftDigit_eq, toIdle]
  | shiftg gcode dp =>
    obtain rfl := Host.Outcome.next.inj h
    simp [exec, execShiftg, shiftDigit_eq, toIdle]
  | latch =>
    obtain rfl := Host.Outcome.next.inj h
    simp [exec, execLatch, latchPulse_eq, toIdle]
  | render m =>
    obtain rfl := Host.Outcome.next.inj h
    simp [exec, execRender, latchPulse_eq, renderDigit_eq, State.unitsPattern, toIdle]

theorem quiet_iff (s : State) :
    quiet s = true ↔ s.phase = .idle ∧ s.cmdValid = false ∧ s.rst = false ∧ s.pauseAfter = none := by
  simp [quiet, and_assoc]

/-- A command accepted by a quiet block leaves it quiet, with the same moves to come. -/
theorem exec_accept_keeps_quiet {i : Instr} {s t : State} (hq : quiet s = true) (h : exec i s.accept = .next t) :
    quiet t = true ∧ t.host = s.host := by
  obtain ⟨hp, -, hr, -⟩ := (quiet_iff s).mp hq
  have hp' : s.accept.phase = .idle := hp
  obtain rfl := Host.Outcome.next.inj ((exec_eq_runEvents_of_le hp' (eventCount_le i)).symm.trans h)
  obtain ⟨hr1, hv1, hh1, ha1⟩ := runEvents_keeps_ports 98 (beginCommand i s.accept)
  obtain ⟨hr2, hv2, hh2, ha2⟩ := beginCommand_keeps_ports i s.accept
  refine ⟨(quiet_iff _).mpr ⟨runEvents_98_phase _, hv1.trans hv2, ?_, ha1.trans ha2⟩, hh1.trans hh2⟩
  exact (hr1.trans hr2).trans hr

/-- Two steps of a quiet block: the offer lands, and its command is accepted and run. -/
theorem runSteps_offer {i : Instr} {s t : State} (hq : quiet s = true) (ht : exec i s.accept = .next t) (c : Word)
    (moves : List HostMove) (n : Nat) :
    runSteps (n + 2) { s with cmd := c, host := .offer (encode i) none :: moves } =
      runSteps n { t with cmd := encode i, host := moves } := by
  obtain ⟨hp, hv, hr, -⟩ := (quiet_iff s).mp hq
  have hland := step_of_landing (s := { s with cmd := c, host := .offer (encode i) none :: moves })
    (.inr ⟨hr, accepts_eq_false_of_no_offer hv, rfl⟩) rfl (by simp [HostMove.canLand, hv])
  refine (runSteps_succ hland (n + 1)).trans (runSteps_succ ?_ n)
  refine .trans (step_eq_exec hr rfl hp rfl) ?_
  exact (congrArg (exec · _) (decode_encode i)).trans (exec_with_cmd_host ht (encode i) moves)

/-- By induction on the program, from any word on CMD. -/
theorem runSteps_offers (program : List Instr) (s : State) (hq : quiet s = true) (hh : s.host = []) :
    ∃ t, runProgram program s = .next t ∧ ∀ c : Word,
      runSteps (2 * program.length) { s with cmd := c, host := offers program } =
        .next { t with cmd := (program.map encode).getLastD c } := by
  induction program generalizing s with
  | nil =>
    have hstays (c : Word) : ({ s with cmd := c, host := [] } : State) = { s with cmd := c } := by rw [← hh]
    exact ⟨s, rfl, fun c => congrArg Host.Outcome.next (hstays c)⟩
  | cons i rest ih =>
    obtain ⟨u, hu⟩ := exec_next i s.accept
    obtain ⟨hqu, hhu⟩ := exec_accept_keeps_quiet hq hu
    obtain ⟨t, ht, hrun⟩ := ih u hqu (hhu.trans hh)
    refine ⟨t, by simpa [runProgram, hu] using ht, fun c => ?_⟩
    rw [List.map_cons, List.getLastD_cons]
    exact (runSteps_offer hq hu c (offers rest) (2 * rest.length)).trans (hrun (encode i))

end Sys2Proof.Machine

/-! ## The obligations -/

open Sys2Proof Sys2Proof.Machine Sys2Proof.Safety

/-- Settles O31: the run is `exec`'s, digit by digit, and the trace is read off the position of each event. -/
theorem eventByEventRunIsTheCommand : Obligations.EventByEventRunIsTheCommand := by
  intro i s hs
  refine ⟨exec_eq_runEvents i s, eventTrace_beginCommand i s, fun n hn => ?_, ?_⟩
  · exact Bool.eq_false_iff.mpr fun hready => Nat.not_le.mpr hn ((cmdReady_runEvents_beginCommand i hs n).mp hready)
  · exact (cmdReady_runEvents_beginCommand i hs _).mpr le_rfl

/-- Settles O35: a block left alone makes one event a step, and a pause only splits the command's events. -/
theorem stepsCompleteTheCommandAsExec : Obligations.StepsCompleteTheCommandAsExec := by
  refine ⟨fun s hr hv hh => ⟨98, le_rfl, runSteps_of_leftAlone 98 ⟨hr, hv, hh⟩, runEvents_98_phase s⟩, ?_⟩
  intro s m hr hv hp hpause hh
  have hbegun : leftAlone (runEvents m (beginCommand (decode s.cmd) s.accept)) := by
    obtain ⟨hr', hv', hh', -⟩ := beginCommand_keeps_ports (decode s.cmd) s.accept
    exact runEvents_keeps_leftAlone m ⟨hr'.trans hr, hv', hh'.trans hh⟩
  have hcount := eventCount_le (decode s.cmd)
  refine ⟨99, le_rfl, ?_⟩
  calc runSteps 99 s
      = runSteps 98 (runEvents m (beginCommand (decode s.cmd) s.accept)) :=
        runSteps_succ (step_eq_runEvents hr hv hp hpause) 98
    _ = .next (runEvents 98 (runEvents m (beginCommand (decode s.cmd) s.accept))) := runSteps_of_leftAlone 98 hbegun
    _ = .next (runEvents (m + 98) (beginCommand (decode s.cmd) s.accept)) := by rw [runEvents_add]
    _ = exec (decode s.cmd) s.accept :=
      .symm (exec_eq_runEvents_of_le (s := s.accept) hp (by omega))

/-- Settles O36: a move that can land does, on the state that the boundary leaves. -/
theorem hostMovesLandOnTheirPorts : Obligations.HostMovesLandOnTheirPorts := by
  intro s u rest hu
  refine ⟨fun word pause hh hv => ?_, fun level hh => ?_, fun code dp hh => ?_, fun word pause hh hv hr => ?_⟩
  · exact step_of_landing hu hh (by simp [HostMove.canLand, hv])
  · exact step_of_landing hu hh rfl
  · exact step_of_landing hu hh rfl
  · obtain ⟨-, rfl⟩ | ⟨hlow, -⟩ := hu
    · exact step_of_waiting_under_reset hr hh (by simp [HostMove.canLand, hv])
    · exact absurd (hr.symm.trans hlow) (by decide)

/-- Settles O54: two steps an offer, by induction on the program; no command reads CMD. -/
theorem offeredProgramRunsInOrder : Obligations.OfferedProgramRunsInOrder := by
  intro program s hq
  obtain ⟨t, ht, hrun⟩ := runSteps_offers program { s with host := [] } hq rfl
  exact ⟨t, ht, hrun s.cmd⟩

/-- Settles O33: acceptance, with and without a pause; the fetched word has 32 bits, so it is read whole. -/
theorem stepRunsTheDecodedCommand : Obligations.StepRunsTheDecodedCommand := by
  refine ⟨fun s => step_eq_exec, fun s n => step_eq_runEvents, fun s w => ?_⟩
  rw [step_eq_exec rfl rfl rfl rfl, withFetchWord_cmd, Nat.mod_eq_of_lt w.isLt, BitVec.ofNat_toNat,
    BitVec.setWidth_eq]

/-- Settles O34: a busy block accepts nothing, and no move lands. -/
theorem busyStepMakesTheNextEvent : Obligations.BusyStepMakesTheNextEvent := by
  intro s hr hp hhost
  rw [step_of_not_accepts hr (accepts_eq_false_of_busy hp), proceed_of_no_landing]
  obtain hh | ⟨hv, word, pause, rest, hh⟩ := hhost
  · simp [hh]
  · simp [hh, HostMove.canLand, hv]

end

section
/-! PROOFS. The chain and the display: the block cannot read its chain (O48); an update, run again, shows the same
(O28); and so does a repeated LATCH (O27). -/

namespace Sys2Proof.Machine

open Sys2Proof.Safety

/-! ## The block without its chain (20_memory.md R51; 60_exceptions.md R210) -/

/-- The state with both stages of the chain blanked out: what the block has of its own. -/
def State.chainless (s : State) : State := { s with storage := .unknown, output := .unknown }

theorem sameButChain_iff (s t : State) : sameButChain s t ↔ s.chainless = t.chainless := by
  constructor
  · intro h
    rw [sameButChain] at h
    rw [h]
    rfl
  · intro h
    calc t = { t.chainless with storage := t.storage, output := t.output } := rfl
      _ = { s with storage := t.storage, output := t.output } := by rw [← h]; rfl

/-- An event moves its line; what else it does, it does to the chain. -/
theorem applyEvent_chainless (e : Event) (s : State) :
    (applyEvent e s).chainless = s.chainless.setLevel e.line e.level := by
  obtain ⟨rfl, -, h⟩ | ⟨rfl, -, h⟩ | h := applyEvent_cases e s
  · rw [h]; rfl
  · rw [h]; rfl
  · rw [h]
    cases e.line <;> rfl

theorem checkLatch_chainless (s : State) : (checkLatch s).chainless = checkLatch s.chainless := by
  rw [checkLatch, checkLatch]
  exact apply_ite State.chainless _ _ _

theorem beforeEvent_chainless (s : State) : (beforeEvent s).chainless = beforeEvent s.chainless := by
  have hphase : s.chainless.phase = s.phase := rfl
  unfold beforeEvent
  rw [hphase]
  cases s.phase with
  | idle => rfl
  | shifting k => rfl
  | latching k => simp only [apply_ite State.chainless, checkLatch_chainless]
  | rendering k =>
    simp only [apply_ite State.chainless, checkLatch_chainless]
    rfl

theorem afterShiftEvent_chainless (j : Nat) (s : State) :
    (afterShiftEvent j s).chainless = afterShiftEvent j s.chainless := by
  simp only [afterShiftEvent, apply_ite State.chainless]
  rfl

theorem afterEvent_chainless (s : State) : (afterEvent s).chainless = afterEvent s.chainless := by
  have hphase : s.chainless.phase = s.phase := rfl
  unfold afterEvent
  rw [hphase]
  cases s.phase with
  | idle => rfl
  | shifting k =>
    simp only [← afterShiftEvent_chainless]
    split <;> rfl
  | latching k =>
    dsimp only
    split <;> rfl
  | rendering k =>
    simp only [← afterShiftEvent_chainless]
    split <;> split <;> split <;> rfl

/-- An event of the block's own: the line moves, and no chain responds. -/
def unansweredTick (s : State) : State :=
  match nextEvent (beforeEvent s) with
  | none => beforeEvent s
  | some e => afterEvent ((beforeEvent s).setLevel e.line e.level)

theorem nextEvent_chainless (s : State) : nextEvent s.chainless = nextEvent s := rfl

theorem tick_chainless (s : State) : (tick s).chainless = unansweredTick s.chainless := by
  simp only [tick, unansweredTick, ← beforeEvent_chainless, nextEvent_chainless]
  cases nextEvent (beforeEvent s) with
  | none => rfl
  | some e => simp only [afterEvent_chainless, applyEvent_chainless]

theorem beginCommand_chainless (i : Instr) (s : State) :
    (beginCommand i s).chainless = beginCommand i s.chainless := by cases i <;> rfl

theorem land_chainless (m : HostMove) (s : State) : (m.land s).chainless = m.land s.chainless := by cases m <;> rfl

theorem canLand_chainless (m : HostMove) (s : State) : m.canLand s.chainless = m.canLand s := by cases m <;> rfl

theorem blockReset_chainless (s : State) : (blockReset s).chainless = blockReset s.chainless := by
  rw [blockReset_eq, blockReset_eq]; rfl

/-! ## Two states that differ in the chain only -/

theorem eq_of_sameButChain {α : Type} {f : State → α} (hf : ∀ s, f s.chainless = f s) {s t : State}
    (h : sameButChain s t) : f s = f t := by
  rw [← hf s, ← hf t, (sameButChain_iff s t).mp h]

theorem sameButChain_map {f : State → State} (hf : ∀ s, (f s).chainless = f s.chainless) {s t : State}
    (h : sameButChain s t) : sameButChain (f s) (f t) := by
  rw [sameButChain_iff, hf, hf, (sameButChain_iff s t).mp h]

theorem tick_keeps_sameButChain {s t : State} (h : sameButChain s t) : sameButChain (tick s) (tick t) := by
  rw [sameButChain_iff] at h ⊢
  rw [tick_chainless, tick_chainless, h]

theorem runEvents_keeps_sameButChain (n : Nat) {s t : State} (h : sameButChain s t) :
    sameButChain (runEvents n s) (runEvents n t) := by
  induction n generalizing s t with
  | zero => exact h
  | succ n ih => exact ih (tick_keeps_sameButChain h)

/-- The host's next move lands on s, if it can; else the block goes on to `onward`. -/
def hostTurn (s onward : State) : State :=
  match s.host with
  | [] => onward
  | m :: rest => if m.canLand s then m.land { s with host := rest } else onward

theorem proceed_eq_hostTurn (s : State) : proceed s = hostTurn s (tick s) := rfl

theorem underReset_eq_hostTurn (s : State) : underReset s = hostTurn (blockReset s) (blockReset s) := rfl

theorem hostTurn_keeps_sameButChain {s t s' t' : State} (h : sameButChain s t) (h' : sameButChain s' t') :
    sameButChain (hostTurn s s') (hostTurn t t') := by
  have hhost : s.host = t.host := eq_of_sameButChain (fun _ => rfl) h
  have hcan (m : HostMove) : m.canLand s = m.canLand t := eq_of_sameButChain (canLand_chainless m) h
  unfold hostTurn
  rw [hhost]
  cases t.host with
  | nil => exact h'
  | cons m rest =>
    simp only [hcan]
    split
    · exact sameButChain_map (f := fun u => m.land { u with host := rest }) (fun _ => land_chainless m _) h
    · exact h'

/-- Acceptance as a run of events: all of the command's, or as many as its pause says. -/
def acceptedRun (s : State) : State :=
  runEvents (s.pauseAfter.getD (eventCount s.offered)) (beginCommand s.offered s.accept)

theorem acceptCommand_eq_acceptedRun (s : State) : acceptCommand s = .next (acceptedRun s) := by
  unfold acceptCommand acceptedRun
  cases s.pauseAfter with
  | none => exact exec_eq_runEvents _ _
  | some n => rfl

theorem acceptedRun_keeps_sameButChain {s t : State} (h : sameButChain s t) :
    sameButChain (acceptedRun s) (acceptedRun t) := by
  have hoffered : s.offered = t.offered := eq_of_sameButChain (fun _ => rfl) h
  have hpause : s.pauseAfter = t.pauseAfter := eq_of_sameButChain (fun _ => rfl) h
  rw [acceptedRun, acceptedRun, hoffered, hpause]
  refine runEvents_keeps_sameButChain _ ?_
  exact sameButChain_map (f := fun u => beginCommand t.offered u.accept) (fun _ => beginCommand_chainless _ _) h

/-- The state a step leads to (60_exceptions.md R200, R202). -/
def stepState (s : State) : State :=
  if s.rst then underReset s else if s.accepts then acceptedRun s else proceed s

theorem step_eq_stepState (s : State) : step s = .next (stepState s) := by
  simp only [step, stepState, acceptCommand_eq_acceptedRun, apply_ite Host.Outcome.next]

/-- RST, CMD_VALID and CMD_READY are not the chain's, so both states take the same branch of a step. -/
theorem stepState_keeps_sameButChain {s t : State} (h : sameButChain s t) :
    sameButChain (stepState s) (stepState t) := by
  have hrst : s.rst = t.rst := eq_of_sameButChain (fun _ => rfl) h
  have haccepts : s.accepts = t.accepts := eq_of_sameButChain (fun _ => rfl) h
  rw [stepState, stepState, hrst, haccepts]
  split
  · rw [underReset_eq_hostTurn, underReset_eq_hostTurn]
    have hreset : sameButChain (blockReset s) (blockReset t) := sameButChain_map blockReset_chainless h
    exact hostTurn_keeps_sameButChain hreset hreset
  · split
    · exact acceptedRun_keeps_sameButChain h
    · rw [proceed_eq_hostTurn, proceed_eq_hostTurn]
      exact hostTurn_keeps_sameButChain h (tick_keeps_sameButChain h)

/-! ## An update (20_memory.md R59; 41_display_driver.md R140) -/

/-- The command is a SHIFT_DIGIT of a pattern that depends on SEG_POS only. -/
def shiftsPattern (i : Instr) (pattern : SegPos → Pattern) : Prop :=
  ∀ s, exec i s = .next (toIdle (shiftDigit (pattern s.segPos) s))

theorem shiftsPattern_shiftp (p : Pattern) : shiftsPattern (.shiftp p) fun _ => p := fun _ => rfl

theorem shiftsPattern_shiftg (code : Code) (dp : Bool) :
    shiftsPattern (.shiftg code dp) fun seg => enc seg code dp := fun _ => rfl

theorem exec_latch (s : State) : exec .latch s = .next (toIdle (latchPulse s)) := rfl

theorem exec_render (m : Magnitude) (s : State) :
    exec (.render m) s = .next (toIdle (latchPulse
      (renderDigit 3 (renderDigit 2 (renderDigit 1 (renderDigit 0 { s with mag := m })))))) := rfl

theorem isUpdate_cases {update : List Instr} (h : isUpdate update = true) :
    (∃ m, update = [.render m]) ∨
      ∃ a b c d, update = [a, b, c, d, .latch] ∧ ∀ i ∈ [a, b, c, d], ∃ pattern, shiftsPattern i pattern := by
  unfold isUpdate at h
  split at h
  case h_1 m => exact .inl ⟨m, rfl⟩
  case h_2 a b c d =>
    refine .inr ⟨a, b, c, d, rfl, fun i hi => ?_⟩
    have hshift := List.all_eq_true.mp h i hi
    cases i with
    | shiftp p => exact ⟨_, shiftsPattern_shiftp p⟩
    | shiftg code dp => exact ⟨_, shiftsPattern_shiftg code dp⟩
    | nop => cases hshift
    | latch => cases hshift
    | render m => cases hshift
  case h_3 => cases h

/-- From every state the program runs, keeps SEG_POS, and leaves in O four patterns that depend on SEG_POS only. -/
def showsImage (program : List Instr) (c0 c1 c2 c3 : SegPos → Pattern) : Prop :=
  ∀ s, ∃ t, runProgram program s = .next t ∧ t.segPos = s.segPos ∧
    t.output = image (c0 s.segPos) (c1 s.segPos) (c2 s.segPos) (c3 s.segPos)

theorem runProgram_cons {i : Instr} {s t : State} (h : exec i s.accept = .next t) (rest : List Instr) :
    runProgram (i :: rest) s = runProgram rest t := by
  rw [runProgram, h]

theorem showsImage_render (m : Magnitude) : showsImage [.render m]
    (fun seg => digitPattern seg (renderedDigit m 3)) (fun seg => digitPattern seg (renderedDigit m 2))
    (fun seg => digitPattern seg (renderedDigit m 1)) (fun seg => digitPattern seg (renderedDigit m 0)) := by
  intro s
  refine ⟨_, runProgram_cons (exec_render m s.accept) [], ?_⟩
  simp [latchPulse_eq, renderDigit_eq, State.unitsPattern, pushed_four, renderedDigit_succ, renderedDigit_zero]

theorem showsImage_four_shifts {a b c d : Instr} {pa pb pc pd : SegPos → Pattern} (ha : shiftsPattern a pa)
    (hb : shiftsPattern b pb) (hc : shiftsPattern c pc) (hd : shiftsPattern d pd) :
    showsImage [a, b, c, d, .latch] pd pc pb pa := by
  intro s
  refine ⟨_, ((runProgram_cons (ha _) _).trans <| (runProgram_cons (hb _) _).trans <|
    (runProgram_cons (hc _) _).trans <| (runProgram_cons (hd _) _).trans <| runProgram_cons (exec_latch _) []), ?_⟩
  simp [latchPulse_eq, shiftDigit_eq, pushed_four]

theorem exists_showsImage {update : List Instr} (h : isUpdate update = true) :
    ∃ c0 c1 c2 c3, showsImage update c0 c1 c2 c3 := by
  obtain ⟨m, rfl⟩ | ⟨a, b, c, d, rfl, hshift⟩ := isUpdate_cases h
  · exact ⟨_, _, _, _, showsImage_render m⟩
  · simp only [List.forall_mem_cons] at hshift
    obtain ⟨⟨pa, ha⟩, ⟨pb, hb⟩, ⟨pc, hc⟩, ⟨pd, hd⟩, -⟩ := hshift
    exact ⟨pd, pc, pb, pa, showsImage_four_shifts ha hb hc hd⟩

theorem displayKnown_of_image {s : State} {c0 c1 c2 c3 : Pattern} (h : s.output = image c0 c1 c2 c3) :
    s.displayKnown = true := by
  simp [State.displayKnown, h, image]

theorem displayState_congr {s t : State} (h : s.output = t.output) : s.displayState = t.displayState := by
  simp only [State.displayState, State.cellPattern, h]

end Sys2Proof.Machine

/-! ## The obligations -/

open Sys2Proof Sys2Proof.Machine Sys2Proof.Safety

/-- Settles O28: an update leaves in O an image that depends on SEG_POS only, and SEG_POS is the same both times. -/
theorem updateIsIdempotentOnTheDisplay : Obligations.UpdateIsIdempotentOnTheDisplay := by
  intro update s hupdate
  obtain ⟨c0, c1, c2, c3, hshows⟩ := exists_showsImage hupdate
  obtain ⟨t, ht, hseg, houtput⟩ := hshows s
  obtain ⟨u, hu, -, houtput'⟩ := hshows t
  rw [hseg] at houtput'
  exact ⟨t, u, ht, hu, displayState_congr (houtput'.trans houtput.symm), displayKnown_of_image houtput⟩

/-- Settles O48: with the chain blanked out, what a step does is a function of the block alone. -/
theorem theBlockCannotReadTheChain : Obligations.TheBlockCannotReadTheChain := by
  intro s t s' t' h hs ht
  obtain rfl := Host.Outcome.next.inj ((step_eq_stepState s).symm.trans hs)
  obtain rfl := Host.Outcome.next.inj ((step_eq_stepState t).symm.trans ht)
  exact stepState_keeps_sameButChain h

/-- Settles O27: the first LATCH leaves S as it was and PENDING 0, so the second copies the same S and is recorded. -/
theorem repeatedLatchKeepsTheDisplay : Obligations.RepeatedLatchKeepsTheDisplay := by
  intro s
  refine ⟨_, _, exec_latch s, exec_latch _, ?_⟩
  simp [latchPulse_eq]

end

section
/-! PROOFS. Command words: encoding, decoding and ignored bits (O1 to O4); the assembler's rejections (O6) and worked
encodings (O5); what SHOW and BLANK display (O7); the encoder port (O14). -/

/-! ## A word as its opcode and its operand bits (30_encoding.md R70 to R73) -/

namespace Sys2Proof

theorem opcField_append_magField (w : Word) : opcField w ++ magField w = w := BitVec.extractLsb'_append_extractLsb'

theorem magField_eq_pat (w : Word) : magField w = w.extractLsb' 8 16 ++ patField w :=
  (BitVec.extractLsb'_append_extractLsb'_eq_extractLsb' (x := w) (start₁ := 0) (len₁ := 8) rfl).symm

theorem ofBool_dpField (w : Word) : BitVec.ofBool (dpField w) = w.extractLsb' 8 1 := by
  apply BitVec.eq_of_getLsbD_eq
  intro j hj
  obtain rfl : j = 0 := by omega
  simp [dpField]

theorem magField_eq_gcode (w : Word) :
    magField w = w.extractLsb' 9 15 ++ (BitVec.ofBool (dpField w) ++ gcodeField w) := by
  have hlow : BitVec.ofBool (dpField w) ++ gcodeField w = w.extractLsb' 0 9 := by
    rw [ofBool_dpField]
    exact BitVec.extractLsb'_append_extractLsb'_eq_extractLsb' rfl
  rw [hlow]
  exact (BitVec.extractLsb'_append_extractLsb'_eq_extractLsb' (x := w) (start₁ := 0) (len₁ := 9) rfl).symm

/-- A mask acts on the opcode and on the operand bits separately. -/
theorem word_and_append (w : Word) (o : BitVec 8) (m : BitVec 24) :
    w &&& (o ++ m) = (opcField w &&& o) ++ (magField w &&& m) := by
  rw [← BitVec.and_append, opcField_append_magField]

/-- A mask that keeps the whole opcode. -/
theorem word_and_opc_append (w : Word) (m : BitVec 24) :
    w &&& (BitVec.allOnes 8 ++ m) = opcField w ++ (magField w &&& m) := by
  rw [word_and_append, BitVec.and_allOnes]

theorem magField_and_pat (w : Word) :
    magField w &&& (0#16 ++ BitVec.allOnes 8) = operandBits (.shiftp (patField w)) := by
  rw [magField_eq_pat, BitVec.and_append, BitVec.and_zero, BitVec.and_allOnes]
  rfl

theorem magField_and_gcode (w : Word) :
    magField w &&& (0#15 ++ BitVec.allOnes 9) = operandBits (.shiftg (gcodeField w) (dpField w)) := by
  rw [magField_eq_gcode, BitVec.and_append, BitVec.and_zero, BitVec.and_allOnes]
  rfl

/-! ## The fields as numbers (30_encoding.md R72) -/

theorem opcField_toNat (w : Word) : (opcField w).toNat = w.toNat / 16777216 := by
  have := w.isLt
  simp only [opcField, BitVec.extractLsb'_toNat, Nat.shiftRight_eq_div_pow]
  omega

theorem patField_eq_ofNat (w : Word) : patField w = BitVec.ofNat 8 (w.toNat % 256) := by
  apply BitVec.eq_of_toNat_eq
  simp [patField]

theorem dpField_eq_decide (w : Word) : dpField w = decide (w.toNat / 256 % 2 = 1) := by
  rw [dpField, ← BitVec.testBit_toNat, Nat.testBit_eq_decide_div_mod_eq]

theorem magField_eq_ofNat (w : Word) : magField w = BitVec.ofNat 24 (w.toNat % 16777216) := by
  apply BitVec.eq_of_toNat_eq
  simp [magField]

/-! ## The decoder, by the opcode (30_encoding.md R73, R74) -/

theorem decode_of_opc_zero {w : Word} (h : (opcField w).toNat = 0) : decode w = .nop := by
  simp only [decode, h]

theorem decode_of_opc_one {w : Word} (h : (opcField w).toNat = 1) : decode w = .shiftp (patField w) := by
  simp only [decode, h]

theorem decode_of_opc_two {w : Word} (h : (opcField w).toNat = 2) :
    decode w = .shiftg (gcodeField w) (dpField w) := by
  simp only [decode, h]

theorem decode_of_opc_three {w : Word} (h : (opcField w).toNat = 3) : decode w = .latch := by
  simp only [decode, h]

theorem decode_of_opc_four {w : Word} (h : (opcField w).toNat = 4) : decode w = .render (magField w) := by
  simp only [decode, h]

theorem decode_of_reserved {w : Word} (h : 5 ≤ (opcField w).toNat) : decode w = .nop := by
  unfold decode
  split
  case h_1 => rfl
  case h_6 => rfl
  all_goals omega

theorem decode_of_ge {w : Word} (h : 0x05000000 ≤ w.toNat) : decode w = .nop :=
  decode_of_reserved (by rw [opcField_toNat]; omega)

/-- The opcode map's mask and match (30_encoding.md R73) single out the opcode. -/
theorem opcField_toNat_of_masked {w : Word} (o : BitVec 8) (h : w &&& 0xFF000000 = o ++ 0#24) :
    (opcField w).toNat = o.toNat := by
  have hmask : (0xFF000000 : Word) = BitVec.allOnes 8 ++ 0#24 := rfl
  rw [hmask, word_and_opc_append, BitVec.and_zero] at h
  exact congrArg BitVec.toNat ((BitVec.append_left_inj _).mp h)

/-- The opcode, and the operand fields that it names, decide the command. -/
theorem decode_congr {w v : Word} (hopc : opcField w = opcField v)
    (hpat : (opcField w).toNat = 1 → patField w = patField v)
    (hglyph : (opcField w).toNat = 2 → gcodeField w = gcodeField v ∧ dpField w = dpField v)
    (hmag : (opcField w).toNat = 4 → magField w = magField v) : decode w = decode v := by
  unfold decode
  rw [← hopc]
  split
  case h_1 => rfl
  case h_2 h => rw [hpat h]
  case h_3 h => rw [(hglyph h).1, (hglyph h).2]
  case h_4 => rfl
  case h_5 h => rw [hmag h]
  case h_6 => rfl

theorem patField_and (w : Word) : patField (w &&& 0xFF) = patField w := by
  rw [patField, BitVec.extractLsb'_and]
  exact BitVec.and_allOnes

theorem gcodeField_and (w : Word) : gcodeField (w &&& 0x1FF) = gcodeField w := by
  rw [gcodeField, BitVec.extractLsb'_and]
  exact BitVec.and_allOnes

theorem dpField_and (w : Word) : dpField (w &&& 0x1FF) = dpField w := by
  rw [dpField, BitVec.getLsbD_and]
  exact Bool.and_true _

/-! ## Encoding what was decoded (30_encoding.md R74) -/

theorem opcode_toNat_le (i : Instr) : (opcode i).toNat ≤ 4 := by cases i <;> simp [opcode]

theorem opcode_decode {w : Word} (h : (opcField w).toNat ≤ 4) : opcode (decode w) = opcField w := by
  apply BitVec.eq_of_toNat_eq
  obtain hopc | hopc | hopc | hopc | hopc : (opcField w).toNat = 0 ∨ (opcField w).toNat = 1 ∨
      (opcField w).toNat = 2 ∨ (opcField w).toNat = 3 ∨ (opcField w).toNat = 4 := by omega
  · rw [decode_of_opc_zero hopc, hopc]; rfl
  · rw [decode_of_opc_one hopc, hopc]; rfl
  · rw [decode_of_opc_two hopc, hopc]; rfl
  · rw [decode_of_opc_three hopc, hopc]; rfl
  · rw [decode_of_opc_four hopc, hopc]; rfl

theorem encode_decode {w : Word} (h : (opcField w).toNat ≤ 4) :
    encode (decode w) = opcField w ++ operandBits (decode w) := by
  rw [encode, opcode_decode h]

theorem decodeTableWord_toNat (w : Word) : decodeTableWord 32 w.toNat = some (decode w) := by
  rw [decodeTableWord, if_pos le_rfl, Nat.mod_eq_of_lt w.isLt, BitVec.ofNat_toNat, BitVec.setWidth_eq]

end Sys2Proof

/-! ## The assembler (30_encoding.md R78 to R80) -/

namespace Sys2Proof.Machine

theorem assemble_eq_some {l : AsmLine} {words : List Word} (h : l.assemble = some words) :
    words = l.expand.map encode := by
  rw [AsmLine.assemble] at h
  split at h
  case isTrue => exact (Option.some.inj h).symm
  case isFalse => cases h

/-- Whatever the text, the assembler writes words of commands only. -/
theorem exists_encode_of_assembleText {text : List Char} {words : List Word} (h : assembleText text = some words)
    {w : Word} (hw : w ∈ words) : ∃ i, encode i = w := by
  rw [assembleText] at h
  split at h
  case isTrue =>
    obtain rfl := Option.some.inj h
    cases hw
  case isFalse =>
    obtain ⟨l, -, hl⟩ := Option.bind_eq_some_iff.mp h
    rw [assemble_eq_some hl] at hw
    obtain ⟨i, -, hi⟩ := List.mem_map.mp hw
    exact ⟨i, hi⟩

theorem assemble_eq_none_iff (l : AsmLine) : l.assemble = none ↔ l.wf = false := by
  simp [AsmLine.assemble]

theorem wf_digit_eq_false_iff (n : Nat) : (GlyphOperand.digit n).wf = false ↔ 9 < n := by simp [GlyphOperand.wf]

theorem wf_raw_eq_false_iff (n : Nat) : (GlyphOperand.raw n).wf = false ↔ 255 < n := by simp [GlyphOperand.wf]

theorem wf_quoted_eq_false_iff (c : Char) :
    (GlyphOperand.quoted c).wf = false ↔ c ≠ ' ' ∧ c ≠ '-' ∧ c ≠ 'c' := by simp [GlyphOperand.wf]

theorem wf_glyph_eq_false_iff (g : GlyphOperand) : g.wf = false ↔
    (∃ n, g = .digit n ∧ 9 < n) ∨ (∃ n, g = .raw n ∧ 255 < n) ∨
      (∃ c, g = .quoted c ∧ c ≠ ' ' ∧ c ≠ '-' ∧ c ≠ 'c') := by
  cases g with
  | digit n => simp [wf_digit_eq_false_iff]
  | quoted c => simp [wf_quoted_eq_false_iff]
  | raw n => simp [wf_raw_eq_false_iff]

theorem wf_showFour_eq_false_iff (g0 g1 g2 g3 : ShowOperand) :
    (AsmLine.showFour g0 g1 g2 g3).wf = false ↔ ∃ g ∈ [g0, g1, g2, g3], g.glyph.wf = false := by
  simp only [AsmLine.wf, Bool.and_eq_false_iff, List.exists_mem_cons_iff, List.not_mem_nil, false_and, exists_false,
    or_false, or_assoc]

/-- Each of the three quoted literals lies outside '0' to '9'. -/
theorem quoted_digit_is_no_literal {d : Char} (hlow : '0' ≤ d) (hhigh : d ≤ '9') : d ≠ ' ' ∧ d ≠ '-' ∧ d ≠ 'c' := by
  refine ⟨?_, ?_, ?_⟩
  · rintro rfl; exact absurd hlow (by decide)
  · rintro rfl; exact absurd hlow (by decide)
  · rintro rfl; exact absurd hhigh (by decide)

/-! ## Programs that keep the latch contract (42_number_renderer.md R174; 60_exceptions.md R204) -/

open Sys2Proof.Safety

theorem exec_faults_pending_of_contractStep {i : Instr} {s t : State} {k : Nat} (hk : contractStep s.pending i = some k)
    (ht : exec i s = .next t) : t.faults = s.faults ∧ t.pending = k := by
  cases i with
  | nop =>
    obtain rfl := Host.Outcome.next.inj ht
    exact ⟨rfl, Option.some.inj hk⟩
  | shiftp pattern =>
    obtain rfl := Host.Outcome.next.inj ht
    rw [shiftDigit_eq]
    exact ⟨rfl, Option.some.inj hk⟩
  | shiftg gcode dp =>
    obtain rfl := Host.Outcome.next.inj ht
    rw [shiftDigit_eq]
    exact ⟨rfl, Option.some.inj hk⟩
  | latch =>
    obtain rfl := Host.Outcome.next.inj ht
    obtain ⟨hfour, rfl⟩ : s.pending = 4 ∧ 0 = k := by simpa [contractStep] using hk
    simp [latchPulse_eq, hfour]
  | render m =>
    obtain rfl := Host.Outcome.next.inj ht
    obtain ⟨hzero, rfl⟩ : s.pending = 0 ∧ 0 = k := by simpa [contractStep] using hk
    simp [latchPulse_eq, renderDigit_eq, hzero]

theorem runProgram_faults_pending_of_contractRun {program : List Instr} {s t : State} {k : Nat}
    (hk : contractRun s.pending program = some k) (ht : runProgram program s = .next t) :
    t.faults = s.faults ∧ t.pending = k := by
  induction program generalizing s with
  | nil =>
    obtain rfl := Host.Outcome.next.inj ht
    exact ⟨rfl, Option.some.inj hk⟩
  | cons i rest ih =>
    obtain ⟨u, hu⟩ := exec_next i s.accept
    rw [runProgram_cons hu] at ht
    rw [contractRun] at hk
    split at hk
    case h_1 j hj =>
      obtain ⟨hfaults, rfl⟩ := exec_faults_pending_of_contractStep (s := s.accept) hj hu
      obtain ⟨hfaults', hpending⟩ := ih hk ht
      exact ⟨hfaults'.trans hfaults, hpending⟩
    case h_2 => cases hk

/-! ## What an image shows (10_state.md R29 to R31) -/

theorem cellPattern_of_bits {s : State} {k : Fin 4} {p : Pattern}
    (h : ∀ i : Fin 8, s.output[8 * k.val + i.val] = some (p.getLsbD i.val)) : s.cellPattern k = some p :=
  (cellPattern_eq_some s k p).mpr ((packBits_cellBits_eq _ _ _).mpr ⟨p.isLt, h⟩)

theorem displayState_of_image {s : State} {c0 c1 c2 c3 : Pattern} (h : s.output = image c0 c1 c2 c3) :
    s.displayState = (some c0, some c1, some c2, some c3) := by
  have hcell (k : Fin 4) : s.cellPattern k = some (![c0, c1, c2, c3] k) := by
    refine cellPattern_of_bits fun i => ?_
    simp only [h, getElem_image, Nat.mul_add_mod, Nat.mod_eq_of_lt i.isLt]
    fin_cases k
    · simp
    · simp [show 8 + i.val < 16 by omega]
    · simp [show ¬ 16 + i.val < 8 by omega, show 16 + i.val < 24 by omega]
    · simp [show ¬ 24 + i.val < 8 by omega, show ¬ 24 + i.val < 16 by omega]
  simp only [State.displayState, hcell]
  rfl

/-- Four shifts and a LATCH that keep the contract show the last pattern shifted in cell 0, and record nothing. -/
theorem four_shifts_display {a b c d : Instr} {pa pb pc pd : SegPos → Pattern} (ha : shiftsPattern a pa)
    (hb : shiftsPattern b pb) (hc : shiftsPattern c pc) (hd : shiftsPattern d pd) {s : State}
    (hcontract : contractRun s.pending [a, b, c, d, .latch] = some 0) :
    ∃ t, runProgram [a, b, c, d, .latch] s = .next t ∧
      t.displayState = (some (pd s.segPos), some (pc s.segPos), some (pb s.segPos), some (pa s.segPos)) ∧
      t.faults = s.faults := by
  obtain ⟨t, ht, -, himage⟩ := showsImage_four_shifts ha hb hc hd s
  exact ⟨t, ht, displayState_of_image himage, (runProgram_faults_pending_of_contractRun hcontract ht).1⟩

end Sys2Proof.Machine

/-! ## The obligations -/

open Sys2Proof Sys2Proof.Machine

/-- Settles O1: each field of an encoded command reads back its operand, and a 32-bit word is read whole. -/
theorem encodeThenDecodeGivesTheCommandBack : Obligations.EncodeThenDecodeGivesTheCommandBack :=
  fun i => ⟨decode_encode i, (decodeTableWord_toNat _).trans (congrArg some (decode_encode i))⟩

/-- Settles O2: by the opcode; below the reserved ones the word keeps its opcode, and its operand bits are masked. -/
theorem decodeThenEncodeClearsTheIgnoredBits : Obligations.DecodeThenEncodeClearsTheIgnoredBits := by
  intro w
  split_ifs with h0 h1 h2 h3 h4
  · rw [decode_of_opc_zero h0]; rfl
  · rw [encode_decode (by omega), decode_of_opc_one h1, ← magField_and_pat, ← word_and_opc_append]; rfl
  · rw [encode_decode (by omega), decode_of_opc_two h2, ← magField_and_gcode, ← word_and_opc_append]; rfl
  · rw [decode_of_opc_three h3]; rfl
  · rw [encode_decode (by omega), decode_of_opc_four h4]; exact opcField_append_magField w
  · rw [decode_of_reserved (by omega)]; rfl

/-- Settles O3: the masked word gives the opcode, each opcode its command, and each field its remainder. -/
theorem opcodeAloneDecidesTheCommand : Obligations.OpcodeAloneDecidesTheCommand := by
  intro w
  refine ⟨fun h => ?_, fun h => ?_, fun h => ?_, fun h => ?_, fun h => ?_, decode_of_ge⟩
  · exact decode_of_opc_zero (opcField_toNat_of_masked 0 h)
  · rw [decode_of_opc_one (opcField_toNat_of_masked 1 h), patField_eq_ofNat]
  · rw [decode_of_opc_two (opcField_toNat_of_masked 2 h), ← dpField_eq_decide]
    exact congrArg (Instr.shiftg · _) (patField_eq_ofNat w)
  · exact decode_of_opc_three (opcField_toNat_of_masked 3 h)
  · rw [decode_of_opc_four (opcField_toNat_of_masked 4 h), magField_eq_ofNat]

/-- Settles O4: a reserved word decodes to NOP; the ignored bits are in no field that the opcode names; and the
assembler writes encoded commands only. -/
theorem reservedWordsAndIgnoredBitsHaveNoEffect : Obligations.ReservedWordsAndIgnoredBitsHaveNoEffect := by
  refine ⟨fun w s h => ?_, fun w v hopc hpat hglyph hmag => ?_, fun text words h w hw => ?_⟩
  · rw [decode_of_ge h]
    exact ⟨rfl, rfl⟩
  · refine decode_congr hopc (fun h => ?_) (fun h => ⟨?_, ?_⟩) (fun h => by rw [hmag h])
    · rw [← patField_and w, hpat h, patField_and]
    · rw [← gcodeField_and w, hglyph h, gcodeField_and]
    · rw [← dpField_and w, hglyph h, dpField_and]
  · obtain ⟨i, rfl⟩ := exists_encode_of_assembleText h hw
    rw [decode_encode, opcField_encode]
    exact ⟨rfl, opcode_toNat_le i⟩

/-- Settles O6: the assembler rejects a line exactly when it is not well formed, which is each operand's range. -/
theorem assemblerRejectsOperandsOutOfRange : Obligations.AssemblerRejectsOperandsOutOfRange := by
  have rejects {l : AsmLine} {P : Prop} (h : l.wf = false ↔ P) : l.assemble = none ↔ P :=
    (assemble_eq_none_iff l).trans h
  refine ⟨fun n => rejects (by simp [AsmLine.wf]), fun n => rejects (by simp [AsmLine.wf]),
    fun n dp => rejects (wf_digit_eq_false_iff n), fun n dp => rejects (wf_raw_eq_false_iff n),
    fun c dp => rejects (wf_quoted_eq_false_iff c), fun d hlow hhigh dp => ?_, fun g0 g1 g2 g3 => rejects ?_,
    by decide, by decide, by decide⟩
  · exact (assemble_eq_none_iff _).mpr ((wf_quoted_eq_false_iff d).mpr <| quoted_digit_is_no_literal hlow hhigh)
  · simp only [wf_showFour_eq_false_iff, wf_glyph_eq_false_iff]

/-- Settles O7: four shifts and a LATCH from PENDING 0 keep the latch contract and fill the display from cell 3 on. -/
theorem showAndBlankDisplayTheirOperands : Obligations.ShowAndBlankDisplayTheirOperands := by
  refine ⟨fun _ _ _ _ => rfl, rfl, fun s hs => ⟨fun g0 g1 g2 g3 => ?_, ?_⟩⟩
  · exact four_shifts_display (shiftsPattern_shiftg _ _) (shiftsPattern_shiftg _ _) (shiftsPattern_shiftg _ _)
      (shiftsPattern_shiftg _ _) (by rw [hs]; rfl)
  · exact four_shifts_display (shiftsPattern_shiftp 0) (shiftsPattern_shiftp 0) (shiftsPattern_shiftp 0)
      (shiftsPattern_shiftp 0) (by rw [hs]; rfl)

/-- Settles O5: each line is assembled and each word decoded by computation. -/
theorem workedEncodings : Obligations.WorkedEncodings := by
  unfold Obligations.WorkedEncodings
  decide

/-- Settles O14: ENC_PAT reads nothing but SEG_POS and the two inputs, and a move on them can always land. -/
theorem encoderPortFollowsItsInputs : Obligations.EncoderPortFollowsItsInputs :=
  ⟨fun _ => rfl, fun _ _ _ _ hr ha hh => ⟨step_of_landing (.inr ⟨hr, ha, rfl⟩) hh rfl, rfl⟩⟩

end

section
/-! PROOFS. The segment encoder: the ROM's contents (O8), its digits (O9), symbols and blank codes (O10), and the
decimal point, which only the flag sets (O11, O12). -/

/-! ## The glyph table (40_segment_encoder.md R112 to R124; 00_scope.md R8) -/

namespace Sys2Proof

theorem Glyph.mem_all (g : Glyph) : g ∈ Glyph.all := by
  cases g with
  | digit d => revert d; decide
  | space => decide
  | minus => decide
  | c => decide

end Sys2Proof

namespace Sys2Proof.Machine

theorem glyphCode_injective : Function.Injective glyphCode := fun g h hgh =>
  List.inj_on_of_nodup_map (f := glyphCode) (by decide) g.mem_all h.mem_all hgh

theorem dp_notMem_lit (g : Glyph) : Segment.dp ∉ lit g :=
  (by decide : ∀ g ∈ Glyph.all, Segment.dp ∉ lit g) g g.mem_all

/-- No glyph's code is in the ranges of 40_segment_encoder.md R125. -/
theorem glyphCode_ne_of_other {code : Code}
    (h : (0x0A ≤ code ∧ code ≤ 0x1F) ∨ (0x21 ≤ code ∧ code ≤ 0x2C) ∨ (0x2E ≤ code ∧ code ≤ 0x62) ∨ 0x64 ≤ code)
    (g : Glyph) : glyphCode g ≠ code := by
  have hall : ∀ g ∈ Glyph.all,
      ¬ ((0x0A ≤ glyphCode g ∧ glyphCode g ≤ 0x1F) ∨ (0x21 ≤ glyphCode g ∧ glyphCode g ≤ 0x2C) ∨
        (0x2E ≤ glyphCode g ∧ glyphCode g ≤ 0x62) ∨ 0x64 ≤ glyphCode g) := by decide
  rintro rfl
  exact hall g g.mem_all h

/-! ## Reading the ROM (40_segment_encoder.md R100, R101) -/

/-- A cell of the ROM is a glyph that lights a segment, at the glyph's code. -/
theorem mem_glyphRom_iff {p : SegPos} {a : Nat} {b : Pattern} :
    (a, b) ∈ glyphRom p ↔ ∃ g, (glyphCode g).toNat = a ∧ pat p (lit g) = b ∧ b ≠ 0 := by
  simp only [glyphRom, List.mem_filter, List.mem_map, Prod.mk.injEq, bne_iff_ne, Memory.unlisted]
  constructor
  · rintro ⟨⟨g, -, ha, hb⟩, hne⟩
    exact ⟨g, ha, hb, hne⟩
  · rintro ⟨g, ha, hb, hne⟩
    exact ⟨⟨g, g.mem_all, ha, hb⟩, hne⟩

theorem glyphRom_pairwise (p : SegPos) : (glyphRom p).Pairwise fun x y => x.1 < y.1 := by
  have h := glyphRom_wf p
  rw [Memory.wf, Bool.and_eq_true, decide_eq_true_eq] at h
  exact h.1

/-- A blank glyph has no cell and reads as an unlisted address does; any other has the one cell at its code. -/
theorem romRead_glyphCode (p : SegPos) (g : Glyph) : romRead p (glyphCode g) = pat p (lit g) := by
  by_cases hblank : pat p (lit g) = 0
  · rw [hblank]
    refine Memory.read_of_not_mem _ _ fun b hb => ?_
    obtain ⟨h, hcode, rfl, hne⟩ := mem_glyphRom_iff.mp hb
    rw [glyphCode_injective (BitVec.eq_of_toNat_eq hcode)] at hne
    exact hne hblank
  · exact Memory.read_of_mem _ (glyphRom_pairwise p) _ _ (mem_glyphRom_iff.mpr ⟨g, rfl, rfl, hblank⟩)

theorem romRead_of_no_glyph (p : SegPos) {code : Code} (h : ∀ g, glyphCode g ≠ code) : romRead p code = 0 := by
  refine Memory.read_of_not_mem _ _ fun b hb => ?_
  obtain ⟨g, hcode, -, -⟩ := mem_glyphRom_iff.mp hb
  exact h g (BitVec.eq_of_toNat_eq hcode)

theorem getLsbD_romRead_dp (p : SegPos) (code : Code) : (romRead p code).getLsbD (p.pos .dp).val = false := by
  by_cases h : ∃ g, glyphCode g = code
  · obtain ⟨g, rfl⟩ := h
    rw [romRead_glyphCode, getLsbD_pat]
    exact decide_eq_false (dp_notMem_lit g)
  · rw [romRead_of_no_glyph p (not_exists.mp h)]
    exact BitVec.getLsbD_zero

theorem and_bitOf_eq_zero {p : SegPos} {s : Segment} {x : Pattern} (h : x.getLsbD (p.pos s).val = false) :
    x &&& bitOf p s = 0 := by
  rw [bitOf, ← BitVec.twoPow_eq, BitVec.and_twoPow, h]
  rfl

/-! ## ENC (40_segment_encoder.md R110, R111) -/

theorem enc_false (p : SegPos) (code : Code) : enc p code false = romRead p code := rfl

theorem enc_true (p : SegPos) (code : Code) : enc p code true = romRead p code ||| bitOf p .dp := rfl

theorem enc_glyphCode (p : SegPos) (g : Glyph) : enc p (glyphCode g) false = pat p (lit g) := romRead_glyphCode p g

theorem enc_false_of_no_glyph (p : SegPos) {code : Code} (h : ∀ g, glyphCode g ≠ code) : enc p code false = 0 :=
  romRead_of_no_glyph p h

theorem enc_true_of_no_glyph (p : SegPos) {code : Code} (h : ∀ g, glyphCode g ≠ code) :
    enc p code true = bitOf p .dp := by
  rw [enc_true, romRead_of_no_glyph p h]
  exact BitVec.zero_or

theorem pat_singleton (p : SegPos) (s : Segment) : pat p [s] = bitOf p s := BitVec.or_zero

end Sys2Proof.Machine

/-! ## The obligations -/

open Sys2Proof Sys2Proof.Machine

/-- Settles O8: the ROM is canonical, so a glyph's cell is the only one at its code; no other address is listed. -/
theorem romHoldsTheGlyphTable : Obligations.RomHoldsTheGlyphTable := fun p =>
  ⟨romRead_glyphCode p, fun _ => romRead_of_no_glyph p, fun _ _ h => glyphCode_injective h⟩

/-- Settles O10: each symbol reads its table row, and no code of the four ranges is a glyph's. -/
theorem symbolGlyphsAndOtherCodes : Obligations.SymbolGlyphsAndOtherCodes := by
  refine ⟨fun p => ⟨enc_glyphCode p .space, enc_glyphCode p .c, enc_glyphCode p .minus, fun code hcode => ?_⟩,
    by decide⟩
  have hno := glyphCode_ne_of_other hcode
  exact ⟨enc_false_of_no_glyph p hno, (enc_true_of_no_glyph p hno).trans (pat_singleton p .dp).symm⟩

/-- Settles O11: no row of the glyph table lists dp, and the positions of the segments are distinct. -/
theorem noRomEntryHasTheDecimalPoint : Obligations.NoRomEntryHasTheDecimalPoint := fun p code =>
  and_bitOf_eq_zero (getLsbD_romRead_dp p code)

/-- Settles O12: the flag ORs in the one bit at dp's position. -/
theorem decimalPointFlagSetsOnlyItsBit : Obligations.DecimalPointFlagSetsOnlyItsBit := by
  intro p code
  refine ⟨enc_false p code, ?_, fun i hi => ?_,
    fun hno => ⟨enc_false_of_no_glyph p hno, enc_true_of_no_glyph p hno⟩⟩
  · rw [enc_true, BitVec.getLsbD_or, getLsbD_bitOf, decide_eq_true rfl, Bool.or_true]
  · rw [enc_true, BitVec.getLsbD_or, bitOf, getLsbD_one_shiftLeft, decide_eq_false hi, Bool.or_false]

/-- Settles O9: each digit reads its table row under every SEG_POS; the rules' numbers are computed. -/
theorem digitGlyphsLightTheirSegments : Obligations.DigitGlyphsLightTheirSegments := by
  refine ⟨fun p => ?_, by decide⟩
  have hdigit (d : Fin 10) : enc p (glyphCode (.digit d)) false = pat p (litDigit d) := enc_glyphCode p (.digit d)
  exact ⟨hdigit 0, hdigit 1, hdigit 2, hdigit 3, hdigit 4, hdigit 5, hdigit 6, hdigit 7, hdigit 8, hdigit 9⟩

end

section
/-! PROOFS. The display driver: one event and one PULSE (O15, O16), the shifts of the chain (O17, O18), and the driver's
commands NOP, SHIFTP and LATCH (O20, O21, O23). -/

namespace Sys2Proof.Machine

open Sys2Proof.Safety

/-! ## One event (41_display_driver.md R130, R136, R137, R139) -/

theorem level_setLevel (k l : Line) (v : Bool) (s : State) :
    (s.setLevel l v).level k = if k = l then v else s.level k := by
  cases k <;> cases l <;> rfl

theorem setLevel_level_self (l : Line) (s : State) : s.setLevel l (s.level l) = s := by cases l <;> rfl

/-- A drive makes a CLK rise, or a LAT rise, or neither; and what the chain does in each case. -/
theorem drive_cases (l : Line) (v : Bool) (s : State) :
    ((l = .clk ∧ s.clk = false ∧ v = true) ∧
      drive l v s = { s with clk := true, storage := shiftIn (some s.dat) s.storage }) ∨
    ((l = .lat ∧ s.lat = false ∧ v = true) ∧ drive l v s = { s with lat := true, output := s.storage }) ∨
    (¬ (l = .clk ∧ s.clk = false ∧ v = true) ∧ ¬ (l = .lat ∧ s.lat = false ∧ v = true) ∧
      drive l v s = s.setLevel l v) := by
  by_cases hclk : l = .clk ∧ s.clk = false ∧ v = true
  · refine .inl ⟨hclk, ?_⟩
    obtain ⟨rfl, hlow, rfl⟩ := hclk
    simp [drive, State.level, State.setLevel, clkRise, hlow]
  by_cases hlat : l = .lat ∧ s.lat = false ∧ v = true
  · refine .inr (.inl ⟨hlat, ?_⟩)
    obtain ⟨rfl, hlow, rfl⟩ := hlat
    simp [drive, State.level, State.setLevel, latRise, hlow]
  · refine .inr (.inr ⟨hclk, hlat, ?_⟩)
    have hclk' : ¬ (l = .clk ∧ s.level l = false ∧ v = true) := by
      rintro ⟨rfl, hlow, hv⟩; exact hclk ⟨rfl, hlow, hv⟩
    have hlat' : ¬ (l = .lat ∧ s.level l = false ∧ v = true) := by
      rintro ⟨rfl, hlow, hv⟩; exact hlat ⟨rfl, hlow, hv⟩
    rw [drive, if_neg hclk', if_neg hlat']

theorem drive_level (k l : Line) (v : Bool) (s : State) :
    (drive l v s).level k = if k = l then v else s.level k := by
  obtain ⟨⟨rfl, -, rfl⟩, h⟩ | ⟨⟨rfl, -, rfl⟩, h⟩ | ⟨-, -, h⟩ := drive_cases l v s
  · rw [h]; cases k <;> simp [State.level]
  · rw [h]; cases k <;> simp [State.level]
  · rw [h, level_setLevel]

theorem drive_storage (l : Line) (v : Bool) (s : State) :
    (drive l v s).storage =
      if l = .clk ∧ s.clk = false ∧ v = true then shiftIn (some s.dat) s.storage else s.storage := by
  obtain ⟨hrise, h⟩ | ⟨⟨rfl, -, -⟩, h⟩ | ⟨hno, -, h⟩ := drive_cases l v s
  · rw [h, if_pos hrise]
  · simp [h]
  · rw [h, if_neg hno]; cases l <;> rfl

theorem drive_output (l : Line) (v : Bool) (s : State) :
    (drive l v s).output = if l = .lat ∧ s.lat = false ∧ v = true then s.storage else s.output := by
  obtain ⟨⟨rfl, -, -⟩, h⟩ | ⟨hrise, h⟩ | ⟨-, hno, h⟩ := drive_cases l v s
  · simp [h]
  · rw [h, if_pos hrise]
  · rw [h, if_neg hno]; cases l <;> rfl

theorem drive_frame (l : Line) (v : Bool) (s : State) :
    drive l v s =
      { s with
        clk := (drive l v s).clk, dat := (drive l v s).dat, lat := (drive l v s).lat,
        storage := (drive l v s).storage, output := (drive l v s).output } := by
  obtain ⟨-, h⟩ | ⟨-, h⟩ | ⟨-, -, h⟩ := drive_cases l v s
  · rw [h]
  · rw [h]
  · rw [h]; cases l <;> rfl

/-! ## PULSE (41_display_driver.md R131) -/

/-- Whatever the level it starts from, PULSE makes one rise. -/
theorem countRises_pulseEvents (l : Line) (level : Bool) : countRises l level (pulseEvents l) = 1 := by
  simp [pulseEvents, countRises]

theorem pulse_level (l : Line) (s : State) : (pulse l s).level l = true := by
  rw [pulse, drive_level, if_pos rfl]

theorem drive_low_of_low {l : Line} {s : State} (h : s.level l = false) : drive l false s = s := by
  rw [drive_low, ← h, setLevel_level_self]

/-! ## Shifts of the chain (41_display_driver.md R136, R138, R140) -/

/-- Bits shifted in one after the other stand in S in reverse order; what S held stands behind them, as far as it
reaches. -/
theorem storage_foldl_shiftBit (bits : List Bool) (s : State) (i : Nat) (h : i < 32) :
    (bits.foldl (fun u b => shiftBit b u) s).storage[i] =
      if i < bits.length then bits.reverse[i]? else s.storage[i - bits.length] := by
  induction bits generalizing s with
  | nil => simp
  | cons b rest ih =>
    simp only [List.foldl_cons, ih, List.reverse_cons, List.length_cons]
    obtain hlt | rfl | hgt := Nat.lt_trichotomy i rest.length
    · rw [if_pos hlt, if_pos (by omega), List.getElem?_append_left (by simpa using hlt)]
    · simp [shiftBit_eq]
    · simp [shiftBit_eq, show ¬ i < rest.length by omega, show ¬ i < rest.length + 1 by omega,
        show i - rest.length ≠ 0 by omega, Nat.sub_sub]

/-- Four SHIFT_DIGITs fill S with their patterns, the last in cell 0 and the first in cell 3. -/
theorem storage_shiftDigit_four (q0 q1 q2 q3 : Pattern) (s : State) :
    (shiftDigit q3 (shiftDigit q2 (shiftDigit q1 (shiftDigit q0 s)))).storage = image q3 q2 q1 q0 := by
  simp only [shiftDigit_eq, pushed_four]

theorem displayState_latchPulse_shiftDigit_four (q0 q1 q2 q3 : Pattern) (s : State) :
    (latchPulse (shiftDigit q3 (shiftDigit q2 (shiftDigit q1 (shiftDigit q0 s))))).displayState =
      (some q3, some q2, some q1, some q0) := by
  refine displayState_of_image ?_
  simp only [latchPulse_eq, storage_shiftDigit_four]

/-! ## The driver's commands (41_display_driver.md R141 to R143) -/

theorem exec_nop (s : State) : exec .nop s = .next s := rfl

/-- A command that is one SHIFT_DIGIT completes with its pattern in stages 0..7 and every older bit eight stages further
down. -/
theorem shiftsPattern_completes {i : Instr} {pattern : SegPos → Pattern} (h : shiftsPattern i pattern) (s : State) :
    ∃ t b, exec i s = .next t ∧
      t = { s with
        sr := pattern s.segPos, bitIdx := b, phase := .idle, clk := true, dat := (pattern s.segPos).getLsbD 0,
        pending := s.pending + 1, storage := t.storage } ∧
      (∀ j : Fin 8, t.storage[j.val] = some ((pattern s.segPos).getLsbD j.val)) ∧
      ∀ j : Fin 24, t.storage[j.val + 8] = s.storage[j.val] := by
  refine ⟨_, 0, h s, ?_, fun j => ?_, fun j => ?_⟩
  · rw [shiftDigit_eq]; rfl
  · simp [shiftDigit_eq]
  · simp [shiftDigit_eq]

theorem shiftDigitEvents_length (p : Pattern) : (shiftDigitEvents p).length = 24 := rfl

/-- LATCH as one update. -/
theorem exec_latch_eq (s : State) :
    exec .latch s = .next
      { s with
        phase := .idle, lat := true, output := s.storage, pending := 0,
        faults := if s.pending = 4 then s.faults else s.faults ++ [⟨.latchCount, s.pending, s.accepted⟩] } := by
  rw [exec_latch, latchPulse_eq]; rfl

end Sys2Proof.Machine

/-! ## The obligations -/

open Sys2Proof Sys2Proof.Machine

/-- Settles O15: a drive makes a CLK rise, a LAT rise or neither, and each case changes what it names. -/
theorem driveActsOnlyOnRisingEdges : Obligations.DriveActsOnlyOnRisingEdges := by
  intro l v s
  refine ⟨?_, fun k hk => ?_, fun hl hlow hv => ?_, fun hno => ?_, fun hl hlow hv => ?_, fun hno => ?_,
    drive_frame l v s⟩
  · rw [drive_level, if_pos rfl]
  · rw [drive_level, if_neg hk]
  · simp [drive_storage, hl, hlow, hv]
  · rw [drive_storage, if_neg hno]
  · rw [drive_output, if_pos ⟨hl, hlow, hv⟩]
  · rw [drive_output, if_neg hno]

/-- Settles O16: the first event leaves the line LOW from either level, so the second is its one rise. -/
theorem pulseMakesOneRisingEdge : Obligations.PulseMakesOneRisingEdge := by
  intro l s
  refine ⟨rfl, rfl, countRises_pulseEvents l _, pulse_level l s, ?_, drive_low_of_low⟩
  rw [drive_level, if_pos rfl]

/-- Settles O17: each SHIFT_DIGIT pushes the patterns before it eight stages further down, which is one cell. -/
theorem firstPatternShiftedEndsFarthest : Obligations.FirstPatternShiftedEndsFarthest := by
  intro q0 q1 q2 q3 s i
  simp only [storage_shiftDigit_four, getElem_image]
  refine ⟨?_, ?_, ?_, ?_⟩
  · simp [Nat.mod_eq_of_lt i.isLt]
  · simp [show 8 + i.val < 16 by omega, show (8 + i.val) % 8 = i by omega]
  · simp [show ¬ 16 + i.val < 8 by omega, show 16 + i.val < 24 by omega, show (16 + i.val) % 8 = i by omega]
  · simp [show ¬ 24 + i.val < 8 by omega, show ¬ 24 + i.val < 16 by omega, show (24 + i.val) % 8 = i by omega]

/-- Settles O18: thirty-two bits reach every stage; an update leaves in O the image of its four patterns. -/
theorem fullUpdateForgetsThePast : Obligations.FullUpdateForgetsThePast := by
  refine ⟨fun bits s i => ?_, fun q0 q1 q2 q3 s t => ?_⟩
  · refine (storage_foldl_shiftBit bits.toList s i.val i.isLt).trans ?_
    simp
  · simp only [displayState_latchPulse_shiftDigit_four]

/-- Settles O20: NOP has no event, and the decoder reads opcode 0x00 and every reserved one as NOP. -/
theorem nopChangesNothing : Obligations.NopChangesNothing := by
  refine ⟨fun s => ⟨exec_nop s, rfl⟩, fun w hopc => ?_⟩
  obtain hzero | hreserved := hopc
  · exact decode_of_opc_zero (by rw [hzero]; rfl)
  · exact decode_of_reserved hreserved

/-- Settles O21: SHIFTP is one SHIFT_DIGIT of its own operand, under every SEG_POS. -/
theorem shiftpShiftsItsPattern : Obligations.ShiftpShiftsItsPattern := by
  refine ⟨fun p s => ?_, fun w hopc => ?_⟩
  · obtain ⟨t, b, hexec, hframe, hnew, hold⟩ := shiftsPattern_completes (shiftsPattern_shiftp p) s
    exact ⟨t, b, hexec, hframe, hnew, hold, rfl, shiftDigitEvents_length p⟩
  · rw [decode_of_opc_one (by rw [hopc]; rfl), patField_eq_ofNat]

/-- Settles O23: LATCH is one LATCH_PULSE, and its events are LAT's PULSE. -/
theorem latchCommitsTheStorageStage : Obligations.LatchCommitsTheStorageStage :=
  ⟨fun s => ⟨exec_latch_eq s, rfl, countRises_pulseEvents .lat s.lat⟩,
    fun _ hopc => decode_of_opc_three (by rw [hopc]; rfl)⟩

end

section
/-! PROOFS. The number renderer: SHIFTG and RENDER whole (O22, O24), what RENDER shows and what it records (O25, O26),
the latch contract read off FAULT (O53), and the magnitude the host passes (O55). -/

namespace Sys2Proof.Machine

open Sys2Proof.Safety

/-! ## The digits of RENDER (42_number_renderer.md R161 to R166) -/

/-- MAG after RENDER's four divisions. -/
theorem divTen_four (m : Magnitude) : divTen (divTen (divTen (divTen m))) = BitVec.ofNat 24 (m.toNat / 10000) := by
  have := m.isLt
  apply BitVec.eq_of_toNat_eq
  simp only [divTen_toNat, BitVec.toNat_ofNat]
  omega

theorem digitPattern_eq_pat (p : SegPos) (d : Fin 10) : digitPattern p d = pat p (lit (.digit d)) :=
  enc_glyphCode p (.digit d)

/-- A digit of MAG is that digit of MAG mod 10000. -/
theorem renderedDigit_val (m : Magnitude) {k : Nat} (hk : k < 4) :
    (renderedDigit m k).val = m.toNat % 10000 / 10 ^ k % 10 := by
  have hdvd : 10 ^ k * 10 ∣ 10000 := pow_dvd_pow 10 (show k + 1 ≤ 4 from hk)
  rw [← Nat.mod_mul_right_div_self, Nat.mod_mod_of_dvd _ hdvd, Nat.mod_mul_right_div_self]
  rfl

theorem digitPattern_renderedDigit (p : SegPos) (m : Magnitude) {k d : Nat} (hk : k < 4) (hlt : d < 10)
    (hd : d = m.toNat % 10000 / 10 ^ k % 10) :
    digitPattern p (renderedDigit m k) = pat p (lit (.digit ⟨d, hlt⟩)) := by
  have hdigit : renderedDigit m k = ⟨d, hlt⟩ := Fin.ext ((renderedDigit_val m hk).trans hd.symm)
  rw [digitPattern_eq_pat, hdigit]

theorem getLsbD_digitPattern_dp (p : SegPos) (d : Fin 10) : (digitPattern p d).getLsbD (p.pos .dp).val = false :=
  getLsbD_romRead_dp p _

/-- What RENDER leaves in S and O: the units in cell 3. -/
def renderedImage (p : SegPos) (m : Magnitude) : ChainBits :=
  image (digitPattern p (renderedDigit m 3)) (digitPattern p (renderedDigit m 2))
    (digitPattern p (renderedDigit m 1)) (digitPattern p (renderedDigit m 0))

/-- RENDER as one update. -/
theorem exec_render_eq (m : Magnitude) (s : State) :
    exec (.render m) s = .next
      { s with
        phase := .idle, sr := digitPattern s.segPos (renderedDigit m 3), bitIdx := 0, digIdx := 3,
        mag := BitVec.ofNat 24 (m.toNat / 10000), clk := true, lat := true,
        dat := (digitPattern s.segPos (renderedDigit m 3)).getLsbD 0, pending := 0,
        faults := if s.pending = 0 then s.faults else s.faults ++ [⟨.latchCount, s.pending + 4, s.accepted⟩],
        storage := renderedImage s.segPos m, output := renderedImage s.segPos m } := by
  rw [exec_render]
  simp [latchPulse_eq, renderDigit_eq, State.unitsPattern, pushed_four, renderedImage, renderedDigit_succ,
    renderedDigit_zero, divTen_four, toIdle]

theorem exec_render_output (m : Magnitude) (s : State) :
    ∃ t, exec (.render m) s = .next t ∧ t.output = renderedImage s.segPos m := ⟨_, exec_render_eq m s, rfl⟩

/-! ## The events of RENDER (42_number_renderer.md R168) -/

/-- Each bit's PULSE makes one CLK rise, whatever the level before it. -/
theorem countRises_clk_shiftDigitEvents_append (level : Bool) (p : Pattern) (rest : List Event) :
    countRises .clk level (shiftDigitEvents p ++ rest) = 8 + countRises .clk true rest := by
  simp [shiftDigitEvents, shiftBitEvents, pulseEvents, countRises]
  omega

theorem countRises_lat_shiftDigitEvents_append (level : Bool) (p : Pattern) (rest : List Event) :
    countRises .lat level (shiftDigitEvents p ++ rest) = countRises .lat level rest := by
  simp [shiftDigitEvents, shiftBitEvents, pulseEvents, countRises]

theorem commandEvents_render_length (p : SegPos) (m : Magnitude) : (commandEvents p (.render m)).length = 98 := by
  simp only [commandEvents_render, List.length_append, shiftDigitEvents_length]
  rfl

theorem countRises_clk_render (level : Bool) (p : SegPos) (m : Magnitude) :
    countRises .clk level (commandEvents p (.render m)) = 32 := by
  simp only [commandEvents_render, List.append_assoc, countRises_clk_shiftDigitEvents_append]
  rfl

theorem countRises_lat_render (level : Bool) (p : SegPos) (m : Magnitude) :
    countRises .lat level (commandEvents p (.render m)) = 1 := by
  simp only [commandEvents_render, List.append_assoc, countRises_lat_shiftDigitEvents_append, countRises_pulseEvents]

/-! ## What the display shows (10_state.md R29, R30) -/

theorem mem_of_cellPattern_eq_some {s : State} {c0 c1 c2 c3 : Pattern}
    (h : s.displayState = (some c0, some c1, some c2, some c3)) {k : Fin 4} {q : Pattern}
    (hq : s.cellPattern k = some q) : q ∈ [c0, c1, c2, c3] := by
  simp only [State.displayState, Prod.mk.injEq] at h
  obtain ⟨h0, h1, h2, h3⟩ := h
  fin_cases k
  · simp [Option.some.inj (hq.symm.trans h0)]
  · simp [Option.some.inj (hq.symm.trans h1)]
  · simp [Option.some.inj (hq.symm.trans h2)]
  · simp [Option.some.inj (hq.symm.trans h3)]

theorem displayState_of_renderedImage {s : State} {p : SegPos} {m : Magnitude} (h : s.output = renderedImage p m) :
    s.displayState =
      (some (digitPattern p (renderedDigit m 3)), some (digitPattern p (renderedDigit m 2)),
        some (digitPattern p (renderedDigit m 1)), some (digitPattern p (renderedDigit m 0))) :=
  displayState_of_image h

theorem dp_dark_of_renderedImage {s : State} {p : SegPos} {m : Magnitude} (h : s.output = renderedImage p m) {k : Fin 4}
    {q : Pattern} (hq : s.cellPattern k = some q) : q.getLsbD (p.pos .dp).val = false := by
  have hmem : q ∈ [3, 2, 1, 0].map fun j => digitPattern p (renderedDigit m j) :=
    mem_of_cellPattern_eq_some (displayState_of_renderedImage h) hq
  obtain ⟨j, -, rfl⟩ := List.mem_map.mp hmem
  exact getLsbD_digitPattern_dp p _

/-! ## The latch contract and FAULT (42_number_renderer.md R174; 60_exceptions.md R203, R204) -/

theorem exec_accepted {i : Instr} {s t : State} (ht : exec i s = .next t) : t.accepted = s.accepted := by
  cases i with
  | nop => rw [← Host.Outcome.next.inj ht]
  | shiftp pattern => rw [← Host.Outcome.next.inj ht, shiftDigit_eq]; rfl
  | shiftg gcode dp => rw [← Host.Outcome.next.inj ht, shiftDigit_eq]; rfl
  | latch => rw [← Host.Outcome.next.inj ((exec_latch_eq s).symm.trans ht)]
  | render m => rw [← Host.Outcome.next.inj ((exec_render_eq m s).symm.trans ht)]

/-- A command that breaks the contract records it; the shifting commands break none. -/
theorem exec_records_breach {i : Instr} {s t : State} (hbreach : contractStep s.pending i = none)
    (ht : exec i s = .next t) : ∃ r, t.faults = s.faults ++ [r] := by
  cases i with
  | nop => cases hbreach
  | shiftp pattern => cases hbreach
  | shiftg gcode dp => cases hbreach
  | latch =>
    have hne : s.pending ≠ 4 := by simpa [contractStep] using hbreach
    rw [← Host.Outcome.next.inj ((exec_latch_eq s).symm.trans ht)]
    exact ⟨_, if_neg hne⟩
  | render m =>
    have hne : s.pending ≠ 0 := by simpa [contractStep] using hbreach
    rw [← Host.Outcome.next.inj ((exec_render_eq m s).symm.trans ht)]
    exact ⟨_, if_neg hne⟩

theorem exec_faults_length_le {i : Instr} {s t : State} (ht : exec i s = .next t) :
    s.faults.length ≤ t.faults.length := by
  cases hk : contractStep s.pending i with
  | some k => rw [(exec_faults_pending_of_contractStep hk ht).1]
  | none =>
    obtain ⟨r, hr⟩ := exec_records_breach hk ht
    simp [hr]

/-- A program runs to a next state; each of its commands is counted, and none empties FAULT. -/
theorem runProgram_next (program : List Instr) (s : State) : ∃ t, runProgram program s = .next t ∧
    t.accepted = s.accepted + program.length ∧ s.faults.length ≤ t.faults.length := by
  induction program generalizing s with
  | nil => exact ⟨s, rfl, rfl, le_rfl⟩
  | cons i rest ih =>
    obtain ⟨u, hu⟩ := exec_next i s.accept
    obtain ⟨t, ht, haccepted, hfaults⟩ := ih u
    refine ⟨t, (runProgram_cons hu rest).trans ht, ?_, (exec_faults_length_le hu).trans hfaults⟩
    simp only [haccepted, exec_accepted hu, State.accept, List.length_cons]
    omega

/-- The first breach adds a record, and the rest of the list leaves it there. -/
theorem runProgram_records_breach {program : List Instr} {s t : State}
    (hbreach : contractRun s.pending program = none) (ht : runProgram program s = .next t) :
    s.faults.length < t.faults.length := by
  induction program generalizing s with
  | nil => cases hbreach
  | cons i rest ih =>
    obtain ⟨u, hu⟩ := exec_next i s.accept
    rw [runProgram_cons hu] at ht
    rw [contractRun] at hbreach
    split at hbreach
    case h_1 k hk =>
      obtain ⟨-, rfl⟩ := exec_faults_pending_of_contractStep (s := s.accept) hk hu
      exact (exec_faults_length_le hu).trans_lt (ih hbreach ht)
    case h_2 hk =>
      obtain ⟨r, hr⟩ := exec_records_breach (s := s.accept) hk hu
      obtain ⟨t', ht', -, hle⟩ := runProgram_next rest u
      obtain rfl := Host.Outcome.next.inj (ht'.symm.trans ht)
      have hone : u.faults.length = s.faults.length + 1 := by rw [hr, List.length_append]; rfl
      omega

/-! ## The host's magnitude (42_number_renderer.md R170, R171) -/

theorem hostMag_toNat (m : Nat) : (hostMag m).toNat = if m < 16777216 then m else m % 10000 := by
  rw [hostMag, show 2 ^ 24 = 16777216 from rfl]
  split_ifs with h
  · exact Nat.mod_eq_of_lt h
  · exact Nat.mod_eq_of_lt ((Nat.mod_lt m (by decide)).trans (by decide))

end Sys2Proof.Machine

/-! ## The obligations -/

open Sys2Proof Sys2Proof.Machine Sys2Proof.Safety

/-- Settles O22: SHIFTG is one SHIFT_DIGIT of the pattern ENC gives under the state's SEG_POS. -/
theorem shiftgShiftsTheEncodedGlyph : Obligations.ShiftgShiftsTheEncodedGlyph := by
  refine ⟨fun code dp s => ?_, fun w hopc => ?_⟩
  · obtain ⟨t, b, hexec, hframe, hnew, hold⟩ := shiftsPattern_completes (shiftsPattern_shiftg code dp) s
    exact ⟨t, b, hexec, hframe, hnew, hold, rfl, shiftDigitEvents_length _⟩
  · rw [decode_of_opc_two (by rw [hopc]; rfl), ← dpField_eq_decide]
    exact congrArg (Instr.shiftg · _) (patField_eq_ofNat w)

/-- Settles O24: RENDER as one update; its events are four digits' and LAT's PULSE. -/
theorem renderShiftsFourDigitsAndLatches : Obligations.RenderShiftsFourDigitsAndLatches := by
  refine ⟨fun m s => ⟨0, 3, exec_render_eq m s, rfl, commandEvents_render_length s.segPos m,
    countRises_clk_render s.clk s.segPos m, countRises_lat_render s.lat s.segPos m⟩, fun w hopc => ?_⟩
  rw [decode_of_opc_four (by rw [hopc]; rfl), magField_eq_ofNat]

/-- Settles O25: the image in O is the four digits', the remainder by 10000 has the same ones, and no digit's pattern
has the dp bit. -/
theorem renderDisplaysMagModulo10000 : Obligations.RenderDisplaysMagModulo10000 := by
  intro m s
  obtain ⟨t, ht, houtput⟩ := exec_render_output m s
  refine ⟨t, ht, ?_⟩
  rintro n rfl
  have h3 : m.toNat % 10000 / 1000 < 10 := by omega
  have h2 : m.toNat % 10000 / 100 % 10 < 10 := by omega
  have h1 : m.toNat % 10000 / 10 % 10 < 10 := by omega
  have h0 : m.toNat % 10000 % 10 < 10 := by omega
  refine ⟨h3, h2, h1, h0, ?_, fun k q => dp_dark_of_renderedImage houtput⟩
  rw [displayState_of_renderedImage houtput, digitPattern_renderedDigit (k := 3) _ m (by decide) h3 (by omega),
    digitPattern_renderedDigit (k := 2) _ m (by decide) h2 rfl,
    digitPattern_renderedDigit (k := 1) _ m (by decide) h1 rfl,
    digitPattern_renderedDigit (k := 0) _ m (by decide) h0 (by omega)]

/-- Settles O26: from PENDING 0 the latch finds the four shifts of RENDER itself, and the display is the image of its
digits either way. -/
theorem renderFaultsExactlyOnUnlatchedShifts : Obligations.RenderFaultsExactlyOnUnlatchedShifts := by
  refine ⟨fun m s => ⟨_, _, exec_render_eq m s, exec_render_eq m _, ?_, fun hne => ?_, displayState_congr rfl,
      displayKnown_of_image rfl, rfl⟩,
    fun s => ⟨_, exec_latch_eq s, rfl⟩, rfl, fun s => ⟨rfl, rfl⟩⟩
  · simp
  · exact ⟨_, if_neg hne, rfl, Nat.add_le_add_right (Nat.pos_of_ne_zero hne) 4⟩

/-- Settles O53: by induction on the list; a command that keeps the contract records nothing, one that breaks it adds a
record, and no command takes one away. -/
theorem contractKeptExactlyWhenNoFaultIsRecorded : Obligations.ContractKeptExactlyWhenNoFaultIsRecorded := by
  intro program s
  obtain ⟨t, ht, haccepted, -⟩ := runProgram_next program s
  refine ⟨t, ht, ?_, fun k hk => (runProgram_faults_pending_of_contractRun hk ht).2, haccepted⟩
  cases hk : contractRun s.pending program with
  | some k => simp [(runProgram_faults_pending_of_contractRun hk ht).1]
  | none =>
    have hne : t.faults ≠ s.faults := fun h => (runProgram_records_breach hk ht).ne (by rw [h])
    simp [hne]

/-- Settles O55: the absolute value drops the sign, and 10000 keeps the low four digits. -/
theorem hostMagnitudeKeepsTheLowFourDigits : Obligations.HostMagnitudeKeepsTheLowFourDigits := by
  refine ⟨fun q hq => ?_, fun q => ?_, fun m => ⟨fun h => ?_, fun h => ?_⟩, fun m => ?_⟩
  · rw [hostRender, hostMagnitude, abs_of_nonneg hq]
  · rw [hostRender, hostRender, hostMagnitude, hostMagnitude, abs_neg]
  · rw [hostMag_toNat, if_pos h]
  · rw [hostMag_toNat, if_neg h.not_gt]
  · rw [hostMag_toNat]
    split_ifs
    · rfl
    · exact Nat.mod_mod m 10000

end

section
/-! PROOFS. Exceptions: every event sequence completes (O32), RST held HIGH (O40), power lost and returned (O43), and
the count in a fault record (O44). -/

namespace Sys2Proof.Machine

/-! ## Lines and input ports at a block-only reset (70_reset_and_hazards.md R221) -/

theorem blockReset_lines (s : State) :
    (blockReset s).clk = false ∧ (blockReset s).dat = false ∧ (blockReset s).lat = false := by
  rw [blockReset_eq]; exact ⟨rfl, rfl, rfl⟩

@[simp] theorem blockReset_rst (s : State) : (blockReset s).rst = s.rst := by rw [blockReset_eq]; rfl
@[simp] theorem blockReset_cmd (s : State) : (blockReset s).cmd = s.cmd := by rw [blockReset_eq]; rfl
@[simp] theorem blockReset_cmdValid (s : State) : (blockReset s).cmdValid = s.cmdValid := by rw [blockReset_eq]; rfl
@[simp] theorem blockReset_encCode (s : State) : (blockReset s).encCode = s.encCode := by rw [blockReset_eq]; rfl
@[simp] theorem blockReset_encDp (s : State) : (blockReset s).encDp = s.encDp := by rw [blockReset_eq]; rfl

/-! ## Boundaries with RST HIGH or a move to land (60_exceptions.md R202, R213) -/

theorem step_of_heldRst {s : State} (hr : s.rst = true) (hh : s.host = []) : step s = .next (blockReset s) := by
  rw [step_of_rst hr, underReset, blockReset_host, hh]

/-- The boundary before a landing changes no input port and not SEG_POS. -/
theorem landsOn_keeps_ports {s u : State} (h : landsOn s u) :
    u.rst = s.rst ∧ u.cmd = s.cmd ∧ u.cmdValid = s.cmdValid ∧ u.encCode = s.encCode ∧ u.encDp = s.encDp ∧
      u.segPos = s.segPos := by
  obtain ⟨-, rfl⟩ | ⟨-, -, rfl⟩ := h
  · exact ⟨blockReset_rst s, blockReset_cmd s, blockReset_cmdValid s, blockReset_encCode s, blockReset_encDp s,
      blockReset_segPos s⟩
  · exact ⟨rfl, rfl, rfl, rfl, rfl, rfl⟩

theorem landsOn_ite {s : State} (h : s.rst = true ∨ s.accepts = false) :
    landsOn s (if s.rst then blockReset s else s) := by
  cases hr : s.rst with
  | true => exact .inl ⟨hr, rfl⟩
  | false => exact .inr ⟨hr, h.resolve_left (by simp [hr]), rfl⟩

/-! ## The count of accepted commands (60_exceptions.md R203) -/

@[simp] theorem runEvents_accepted (n : Nat) (s : State) : (runEvents n s).accepted = s.accepted := by
  obtain ⟨_, _, _, _, _, _, _, _, _, _, _, _, h⟩ := runEvents_frame n s; rw [h]

@[simp] theorem beginCommand_accepted (i : Instr) (s : State) : (beginCommand i s).accepted = s.accepted := by
  obtain ⟨_, _, _, _, h⟩ := beginCommand_frame i s; rw [h]

theorem land_accepted (m : HostMove) (s : State) :
    (m.land s).accepted = if m = .powerCycle then 0 else s.accepted := by
  obtain ⟨hne, _, _, _, _, _, _, h⟩ | ⟨rfl, h⟩ := hostMove_land_cases m s
  · rw [h, if_neg hne]
  · rw [h, if_pos rfl]; rfl

/-- A power cycle can always land, so the host's turn changes the count exactly where it is the next move. -/
theorem hostTurn_accepted {s onward : State} (h : onward.accepted = s.accepted) :
    (hostTurn s onward).accepted = if s.host.head? = some .powerCycle then 0 else s.accepted := by
  unfold hostTurn
  split
  case h_1 hh => simpa [hh] using h
  case h_2 m rest hh =>
    simp only [hh, List.head?_cons, Option.some_inj]
    split
    case isTrue => exact land_accepted m _
    case isFalse hwaits =>
      have hne : m ≠ .powerCycle := by rintro rfl; exact hwaits rfl
      rw [if_neg hne, h]

theorem underReset_accepted (s : State) : (underReset s).accepted = 0 := by
  rw [underReset_eq_hostTurn, hostTurn_accepted rfl]
  exact ite_self 0

theorem acceptedRun_accepted (s : State) : (acceptedRun s).accepted = s.accepted + 1 := by
  rw [acceptedRun, runEvents_accepted, beginCommand_accepted, accept_accepted]

theorem proceed_accepted (s : State) :
    (proceed s).accepted = if s.host.head? = some .powerCycle then 0 else s.accepted :=
  hostTurn_accepted (runEvents_accepted 1 s)

end Sys2Proof.Machine

/-! ## The obligations -/

open Sys2Proof Sys2Proof.Machine

/-- Settles O32: each branch of a step has a next state, and each event leaves one event less to come. -/
theorem everyEventSequenceCompletes : Obligations.EveryEventSequenceCompletes :=
  ⟨fun s => ⟨stepState s, step_eq_stepState s⟩, fun s => ⟨98, le_rfl, runEvents_98_phase s⟩⟩

/-- Settles O40: by induction on the steps; each is the block-only reset, which keeps RST, the offer and O. -/
theorem heldRstHoldsTheBlock : Obligations.HeldRstHoldsTheBlock := by
  intro s n hr hh
  induction n generalizing s with
  | zero =>
    obtain ⟨hclk, hdat, hlat⟩ := blockReset_lines s
    exact ⟨blockReset s, runSteps_succ (step_of_heldRst hr hh) 0, (blockReset_rst s).trans hr, rfl, hclk, hdat, hlat,
      rfl, rfl, rfl, blockReset_cmd s, blockReset_cmdValid s, blockReset_output s, fun i => getElem_unknown i i.isLt⟩
  | succ n ih =>
    obtain ⟨t, ht, hreset⟩ := ih (blockReset s) ((blockReset_rst s).trans hr) ((blockReset_host s).trans hh)
    rw [blockReset_cmd, blockReset_cmdValid, blockReset_output] at hreset
    exact ⟨t, (runSteps_succ (step_of_heldRst hr hh) (n + 1)).trans ht, hreset⟩

/-- Settles O44: RST HIGH, an acceptance and the host's turn each have one effect on the count. -/
theorem recordCountCountsAcceptedCommands : Obligations.RecordCountCountsAcceptedCommands := by
  refine ⟨rfl, fun s => ⟨rfl, rfl⟩, fun s t hst => ?_⟩
  rw [← Host.Outcome.next.inj ((step_eq_stepState s).symm.trans hst), stepState]
  split
  · exact underReset_accepted s
  · split
    · exact acceptedRun_accepted s
    · exact proceed_accepted s

/-- Settles O43: the power cycle can always land, on the state that the boundary leaves. -/
theorem powerLossIsAPowerOnReset : Obligations.PowerLossIsAPowerOnReset := by
  intro s rest h hh
  have hu := landsOn_ite h
  obtain ⟨hrst, hcmd, hvalid, hcode, hdp, hseg⟩ := landsOn_keeps_ports hu
  exact ⟨_, step_of_landing hu hh rfl, rfl, hrst, hcmd, hvalid, hcode, hdp, rfl, hseg, rfl, rfl, rfl, rfl, rfl, rfl,
    fun i => ⟨getElem_unknown i i.isLt, getElem_unknown i i.isLt⟩⟩

end

section
/-! PROOFS. Reset and hazards: the storage that PENDING counts stays known (O50), and a LATCH of it shows a known display
(O52); the event counts (O29); an idle block (O37) and a busy one (O38) before an offer; RST (O39) and RST inside a
command (O41); and the power-on reset (O42). -/

namespace Sys2Proof.Machine

open Sys2Proof.Safety

/-! ## The first n stages known (70_reset_and_hazards.md R229) -/

/-- The n stages nearest the data input hold no ⊥. -/
def knownBelow (n : Nat) (v : ChainBits) : Prop := ∀ i : Fin 32, i.val < n → v[i].isSome

theorem knownBelow_zero (v : ChainBits) : knownBelow 0 v := fun _ h => absurd h (Nat.not_lt_zero _)

/-- A known bit shifted in makes one stage more known. -/
theorem knownBelow_shiftIn {n : Nat} {v : ChainBits} (b : Bool) (h : knownBelow n v) :
    knownBelow (n + 1) (shiftIn (some b) v) := by
  intro i hi
  rw [Fin.getElem_fin, getElem_shiftIn]
  split
  case isTrue => rfl
  case isFalse hne => exact h ⟨i.val - 1, by omega⟩ (by simp only; omega)

theorem storageKnown_iff (s : State) :
    storageKnown s ↔ knownBelow (8 * s.pending + bitsInProgress s.phase) s.storage := Iff.rfl

theorem storageKnown_of_idle_of_pending_eq_zero {s : State} (hp : s.phase = .idle) (h0 : s.pending = 0) :
    storageKnown s := by
  rw [storageKnown_iff, hp, h0]
  exact knownBelow_zero _

/-! ## What an event of a SHIFT_DIGIT does to S and PENDING (41_display_driver.md R132, R133) -/

@[simp] theorem afterShiftEvent_storage (j : Nat) (s : State) : (afterShiftEvent j s).storage = s.storage := by
  unfold afterShiftEvent
  split
  case isTrue => rfl
  case isFalse => split <;> rfl

@[simp] theorem shiftTick_pending (j : Nat) (s : State) :
    (shiftTick j s).pending = if j = 23 then s.pending + 1 else s.pending := by
  obtain h0 | h1 | h2 : j % 3 = 0 ∨ j % 3 = 1 ∨ j % 3 = 2 := by omega
  · rw [shiftTick_of_mod_zero h0, if_neg (by omega)]
  · rw [shiftTick_of_mod_one h1, if_neg (by omega)]
  · split
    case isTrue hlast =>
      subst hlast
      obtain ⟨_, _, h⟩ := shiftTick_last s
      rw [h]
    case isFalse hlast =>
      obtain ⟨_, _, h⟩ := shiftTick_of_mod_two h2 hlast s
      rw [h]

theorem shiftTick_storage_of_rise {j : Nat} {s : State} (hj : j % 3 = 2) (hlow : s.clk = false) :
    (shiftTick j s).storage = shiftIn (some s.dat) s.storage := by
  simp [shiftTick, shiftEvent, applyEvent, drive_storage, hj, hlow]

theorem shiftTick_storage_of_no_rise {j : Nat} (hj : j % 3 ≠ 2) (s : State) :
    (shiftTick j s).storage = s.storage := by
  obtain h0 | h1 : j % 3 = 0 ∨ j % 3 = 1 := by omega
  · rw [shiftTick_of_mod_zero h0]
  · rw [shiftTick_of_mod_one h1]

/-- Each CLK rise makes one stage more known, and the eighth is counted in PENDING as its digit is. -/
theorem shiftTick_keeps_known {j : Nat} {s : State} (hj : j < 24) (hat : shiftAt j s)
    (h : knownBelow (8 * s.pending + j / 3) s.storage) :
    knownBelow (8 * (shiftTick j s).pending + (j + 1) % 24 / 3) (shiftTick j s).storage := by
  obtain ⟨-, -, hclk⟩ := hat
  have hcount : 8 * (shiftTick j s).pending + (j + 1) % 24 / 3 = 8 * s.pending + (j + 1) / 3 := by
    rw [shiftTick_pending]
    split <;> omega
  rw [hcount]
  by_cases hrise : j % 3 = 2
  · rw [shiftTick_storage_of_rise hrise (hclk hrise), show (j + 1) / 3 = j / 3 + 1 by omega]
    exact knownBelow_shiftIn s.dat h
  · rwa [shiftTick_storage_of_no_rise hrise, show (j + 1) / 3 = j / 3 by omega]

/-! ## Every step keeps the counted storage known (10_state.md R27) -/

theorem bitsInProgress_shifting_next (k : Fin 24) :
    bitsInProgress (if h : k.val + 1 < 24 then .shifting ⟨k.val + 1, h⟩ else .idle) = (k.val + 1) % 24 / 3 := by
  split
  case isTrue h => rw [bitsInProgress, Nat.mod_eq_of_lt h]
  case isFalse h => rw [show k.val + 1 = 24 by omega]; rfl

theorem bitsInProgress_rendering {k : Fin 98} (hk : k.val < 96) :
    bitsInProgress (.rendering k) = k.val % 24 / 3 := if_pos hk

theorem bitsInProgress_rendering_next {k : Nat} (hk : k < 96) :
    bitsInProgress (.rendering ⟨k + 1, by omega⟩) = (k % 24 + 1) % 24 / 3 := by
  rw [bitsInProgress]
  split
  case isTrue => simp only; omega
  case isFalse h => simp only at h; omega

/-- Before each event of RENDER's digits, once a digit is loaded where one is due, the registers are those of its
SHIFT_DIGIT. -/
theorem shiftAt_renderShift {s : State} {k : Fin 98} (hc : sequencerConsistent s) (hp : s.phase = .rendering k)
    (hk : k.val < 96) :
    shiftAt (k.val % 24) (if k.val % 24 = 0 then loadDigit (k.val / 24) s else s) := by
  obtain ⟨hinside, -⟩ := (sequencerConsistent_rendering hp).mp hc
  split
  case isTrue h0 =>
    obtain ⟨hat, -⟩ := renderAt_loadDigit h0 hk s
    exact hat
  case isFalse h0 =>
    obtain ⟨hat, -⟩ := hinside hk h0
    exact hat

/-- With no digit in progress, only S and PENDING matter. -/
theorem storageKnown_of_no_digit {s t : State} (h : storageKnown s) (hbits : bitsInProgress t.phase = 0)
    (hpending : t.pending = s.pending) (hstorage : t.storage = s.storage) : storageKnown t := by
  intro i hi
  simp only [hstorage]
  exact h i (by omega)

/-- A LATCH_PULSE's first event checks the contract and lowers LAT. -/
theorem storageKnown_latchLow {s : State} {p : Phase} (h : storageKnown s) (hbits : bitsInProgress p = 0) :
    storageKnown { drive .lat false (checkLatch s) with phase := p } := by
  obtain ⟨f, hcheck⟩ := checkLatch_frame s
  refine storageKnown_of_no_digit h hbits ?_ ?_
  · simp [drive_low, hcheck]
  · simp [drive_low, hcheck]

theorem tick_keeps_storageKnown {s : State} (hc : sequencerConsistent s) (h : storageKnown s) :
    storageKnown (tick s) := by
  have hcase := tickCase_tick s
  generalize tick s = t at hcase ⊢
  cases hcase with
  | idle hp => exact h
  | shift k hp =>
    rw [storageKnown_iff, hp] at h
    rw [storageKnown_iff, bitsInProgress_shifting_next]
    exact shiftTick_keeps_known k.isLt ((sequencerConsistent_shifting hp).mp hc) h
  | latchLow hp => exact storageKnown_latchLow h rfl
  | latchHigh hp => exact storageKnown_of_idle_of_pending_eq_zero rfl rfl
  | renderShift k hp hk =>
    rw [storageKnown_iff, hp, bitsInProgress_rendering hk] at h
    have hknown := shiftTick_keeps_known (by omega) (shiftAt_renderShift hc hp hk) (by split <;> exact h)
    rw [storageKnown_iff, bitsInProgress_rendering_next hk]
    by_cases hlast : k.val % 24 = 23
    · simpa only [if_pos hlast, divideMag_pending, divideMag_storage] using hknown
    · simpa only [if_neg hlast] using hknown
  | renderLatchLow hp => exact storageKnown_latchLow h rfl
  | renderLatchHigh hp => exact storageKnown_of_idle_of_pending_eq_zero rfl rfl

theorem storageKnown_beginCommand {i : Instr} {s : State} (h : storageKnown s) : storageKnown (beginCommand i s) := by
  cases i with
  | nop => exact h
  | shiftp pattern => exact storageKnown_of_no_digit h rfl rfl rfl
  | shiftg gcode dp => exact storageKnown_of_no_digit h rfl rfl rfl
  | latch => exact storageKnown_of_no_digit h rfl rfl rfl
  | render m => exact storageKnown_of_no_digit h rfl rfl rfl

/-- No move of the host but the power cycle, which clears PENDING, touches PENDING or S. -/
theorem land_keeps_storageKnown (m : HostMove) {s : State} (h : storageKnown s) : storageKnown (m.land s) := by
  cases m with
  | powerCycle => exact storageKnown_of_idle_of_pending_eq_zero rfl rfl
  | offer word pause => exact h
  | driveRst level => exact h
  | encoderPort code dp => exact h

/-- The consistent sequencer gives every CLK rise its edge, so both are kept together along a command's events. -/
theorem runEvents_keeps_storageKnown (n : Nat) {s : State} (hc : sequencerConsistent s) (h : storageKnown s) :
    storageKnown (runEvents n s) :=
  (runEvents_keeps (P := fun u => sequencerConsistent u ∧ storageKnown u)
    (fun _ ⟨hc, h⟩ => ⟨tick_keeps_sequencerConsistent hc, tick_keeps_storageKnown hc h⟩) n ⟨hc, h⟩).2

theorem stepCase_keeps_storageKnown {s t : State} (hc : sequencerConsistent s) (h : storageKnown s)
    (hst : StepCase s t) : storageKnown t := by
  cases hst with
  | reset => exact storageKnown_of_idle_of_pending_eq_zero rfl rfl
  | resetMove _ m rest => exact land_keeps_storageKnown m (storageKnown_of_idle_of_pending_eq_zero rfl rfl)
  | command _ ha n =>
    exact runEvents_keeps_storageKnown n (sequencerConsistent_beginCommand (phase_accept ha))
      (storageKnown_beginCommand (s := s.accept) h)
  | move m rest => exact land_keeps_storageKnown m h
  | event => exact tick_keeps_storageKnown hc h

/-! ## A known stage array shows a pattern in every cell (10_state.md R29) -/

/-- The pattern of cell k, any ⊥ read as 0. -/
def cellPatternOrZero (v : ChainBits) (k : Fin 4) : Pattern :=
  BitVec.ofFnLE fun i : Fin 8 => v[8 * k.val + i.val].getD false

theorem cellPattern_of_known {s : State} (h : knownBelow 32 s.output) (k : Fin 4) :
    s.cellPattern k = some (cellPatternOrZero s.output k) := by
  refine cellPattern_of_bits fun i => ?_
  obtain ⟨b, hb⟩ := Option.isSome_iff_exists.mp (h ⟨8 * k.val + i.val, by omega⟩ (by simp only; omega))
  simp only [Fin.getElem_fin] at hb
  simp [cellPatternOrZero, hb]

theorem displayKnown_of_known {s : State} (h : knownBelow 32 s.output) : s.displayKnown = true := by
  rw [State.displayKnown, List.all_eq_true]
  intro b hb
  obtain ⟨i, hi, rfl⟩ := List.getElem_of_mem hb
  simp only [Vector.length_toList] at hi
  exact h ⟨i, hi⟩ hi

theorem cellPattern_of_unknown {s : State} (h : s.output = ChainBits.unknown) (k : Fin 4) :
    s.cellPattern k = none := by
  refine Option.eq_none_iff_forall_ne_some.mpr fun p hp => ?_
  obtain ⟨-, hbits⟩ := (packBits_cellBits_eq _ _ _).mp ((cellPattern_eq_some s k p).mp hp)
  simpa [h] using hbits 0

theorem displayState_of_unknown {s : State} (h : s.output = ChainBits.unknown) :
    s.displayState = (none, none, none, none) := by
  simp only [State.displayState, cellPattern_of_unknown h]

/-! ## Rises of a SHIFT_DIGIT's events (70_reset_and_hazards.md R235) -/

theorem countRises_clk_shiftDigitEvents (level : Bool) (p : Pattern) :
    countRises .clk level (shiftDigitEvents p) = 8 := by
  simpa [countRises] using countRises_clk_shiftDigitEvents_append level p []

theorem countRises_lat_shiftDigitEvents (level : Bool) (p : Pattern) :
    countRises .lat level (shiftDigitEvents p) = 0 := by
  simpa [countRises] using countRises_lat_shiftDigitEvents_append level p []

/-! ## The offer on a busy block (70_reset_and_hazards.md R227; 41_display_driver.md R145) -/

/-- The offer of s still stands in t, and nothing has been accepted. -/
def keepsOffer (s t : State) : Prop :=
  t.cmd = s.cmd ∧ t.cmdValid = s.cmdValid ∧ t.accepted = s.accepted ∧ t.pauseAfter = s.pauseAfter

theorem tick_keepsOffer (s : State) : keepsOffer s (tick s) := by
  obtain ⟨_, _, _, _, _, _, _, _, _, _, _, _, h⟩ := tick_frame s
  rw [h]
  exact ⟨rfl, rfl, rfl, rfl⟩

/-- A second offer cannot land over the first, and no other move but the power cycle touches it. -/
theorem land_keepsOffer {s : State} {m : HostMove} (rest : List HostMove) (hv : s.cmdValid = true)
    (hm : m ≠ .powerCycle) (hl : m.canLand s = true) : keepsOffer s (m.land { s with host := rest }) := by
  cases m with
  | offer word pause => simp [HostMove.canLand, hv] at hl
  | driveRst level => exact ⟨rfl, rfl, rfl, rfl⟩
  | encoderPort code dp => exact ⟨rfl, rfl, rfl, rfl⟩
  | powerCycle => exact absurd rfl hm

theorem proceed_keepsOffer {s : State} (hv : s.cmdValid = true) (hh : s.host.head? ≠ some .powerCycle) :
    keepsOffer s (proceed s) := by
  rw [proceed_eq_hostTurn, hostTurn]
  split
  case h_1 => exact tick_keepsOffer s
  case h_2 m rest hmoves =>
    split
    case isTrue hl => exact land_keepsOffer rest hv (by simpa [hmoves] using hh) hl
    case isFalse => exact tick_keepsOffer s

/-! ## RST (70_reset_and_hazards.md R221; 60_exceptions.md R202) -/

/-- At a boundary with RST HIGH the block is reset, and what else changes is the host's: its moves and input ports. -/
theorem underReset_frame {s : State} (hh : s.host.head? ≠ some .powerCycle) :
    ∃ moves a b c d e f, underReset s =
      { blockReset s with
        host := moves, cmd := a, cmdValid := b, pauseAfter := c, rst := d, encCode := e, encDp := f } := by
  cases hmoves : s.host with
  | nil => exact ⟨_, _, _, _, _, _, _, by rw [underReset, blockReset_host, hmoves]⟩
  | cons m rest =>
    rw [underReset_cons hmoves]
    split
    case isTrue =>
      obtain ⟨-, _, _, _, _, _, _, hland⟩ | ⟨rfl, -⟩ := hostMove_land_cases m { blockReset s with host := rest }
      · exact ⟨_, _, _, _, _, _, _, hland⟩
      · exact absurd (by rw [hmoves]; rfl) hh
    case isFalse => exact ⟨_, _, _, _, _, _, _, rfl⟩

/-- The LAT rise is a command's last event, so a run that stops short of it, or has none to make, keeps O. -/
theorem runEvents_output_of_short {n : Nat} {s : State} (h : s.phase.hasLatch → n < eventsLeft s.phase) :
    (runEvents n s).output = s.output := by
  induction n generalizing s with
  | zero => rfl
  | succ n ih =>
    have hleft := eventsLeft_tick s
    have hrest : (runEvents n (tick s)).output = (tick s).output :=
      ih fun hlatch => by have := h (hasLatch_of_tick hlatch); omega
    obtain hkept | ⟨hlatch, hidle, -⟩ := tick_output s
    · exact hrest.trans hkept
    · have hmore := h hlatch
      rw [(eventsLeft_eq_zero _).mpr hidle] at hleft
      omega

theorem runEvents_beginCommand_output {i : Instr} {s : State} {n : Nat} (hp : s.phase = .idle)
    (hlatch : i = .latch → n ≤ 1) (hrender : ∀ m, i = .render m → n ≤ 97) :
    (runEvents n (beginCommand i s)).output = s.output := by
  rw [runEvents_output_of_short, beginCommand_output]
  intro hhas
  rw [eventsLeft_beginCommand i s hp]
  obtain rfl | ⟨m, rfl⟩ := hasLatch_beginCommand hp hhas
  · exact Nat.lt_succ_of_le (hlatch rfl)
  · exact Nat.lt_succ_of_le (hrender m rfl)

/-- RST HIGH for one boundary takes two steps where no command is accepted: RST goes HIGH, and the block resets as it
goes LOW. -/
theorem runSteps_rst_pulse {s : State} {rest : List HostMove} (hr : s.rst = false) (hv : s.cmdValid = false)
    (hh : s.host = .driveRst true :: .driveRst false :: rest) :
    runSteps 2 s =
      .next { blockReset { s with host := .driveRst false :: rest, rst := true } with host := rest, rst := false } := by
  have hrise : step s = .next { s with host := .driveRst false :: rest, rst := true } :=
    step_of_landing (.inr ⟨hr, accepts_eq_false_of_no_offer hv, rfl⟩) hh rfl
  have hfall := step_of_landing (s := { s with host := .driveRst false :: rest, rst := true })
    (.inl ⟨rfl, rfl⟩) rfl rfl
  exact (runSteps_succ hrise 1).trans (runSteps_succ hfall 0)

end Sys2Proof.Machine

/-! ## The obligations -/

open Sys2Proof Sys2Proof.Machine Sys2Proof.Safety

/-- Settles O50: each CLK rise has its edge and brings a known bit; a LATCH_PULSE or a reset starts the count again. -/
theorem stepKeepsTheCountedStorageKnown : Obligations.StepKeepsTheCountedStorageKnown :=
  fun _ _ hc h hst => stepCase_keeps_storageKnown hc h (stepCase_of_step hst)

/-- Settles O52: PENDING 4 counts all 32 stages, and LATCH copies them to O. -/
theorem unfaultedLatchShowsAKnownDisplay : Obligations.UnfaultedLatchShowsAKnownDisplay := by
  intro s h hfour
  have hknown : knownBelow 32 s.storage := fun i _ => h i (by omega)
  exact ⟨_, exec_latch_eq s, displayKnown_of_known hknown, if_pos hfour, fun k => ⟨_, cellPattern_of_known hknown k⟩⟩

/-- Settles O29: a SHIFT_DIGIT's bits make a CLK rise each, a LATCH_PULSE the one LAT rise. -/
theorem eventCountsPerCommand : Obligations.EventCountsPerCommand := by
  intro p clk lat pattern code dp m
  have hshift (q : Pattern) : (shiftDigitEvents q).length = 24 ∧
      countRises .clk clk (shiftDigitEvents q) = 8 ∧ countRises .lat lat (shiftDigitEvents q) = 0 :=
    ⟨shiftDigitEvents_length q, countRises_clk_shiftDigitEvents clk q, countRises_lat_shiftDigitEvents lat q⟩
  exact ⟨rfl, hshift pattern, hshift (enc p code dp), ⟨rfl, rfl, countRises_pulseEvents .lat lat⟩,
    ⟨commandEvents_render_length p m, countRises_clk_render clk p m, countRises_lat_render lat p m⟩,
    fun w hw => by rw [decode_of_ge hw]; rfl⟩

/-- Settles O38: a busy block accepts nothing, and neither an event nor a move that can land touches the offer. -/
theorem busyBlockHoldsTheOffer : Obligations.BusyBlockHoldsTheOffer := by
  intro s hr hbusy hv hh
  have ha : s.accepts = false := by simp [State.accepts, hbusy]
  obtain ⟨hcmd, hvalid, haccepted, hpause⟩ := proceed_keepsOffer hv hh
  exact ⟨_, step_of_not_accepts hr ha, hcmd, hvalid.trans hv, haccepted, hpause⟩

/-- Settles O41: the paused command has made no LAT rise, and the two further steps are RST's pulse. -/
theorem rstInsideACommandKeepsTheDisplay : Obligations.RstInsideACommandKeepsTheDisplay := by
  intro s n rest hr hv hp hpause hh hlatch hrender
  obtain ⟨hr1, hv1, hh1, -⟩ := runEvents_keeps_ports n (beginCommand (decode s.cmd) s.accept)
  obtain ⟨hr2, hv2, hh2, -⟩ := beginCommand_keeps_ports (decode s.cmd) s.accept
  have hpulse := runSteps_rst_pulse ((hr1.trans hr2).trans hr) (hv1.trans hv2) ((hh1.trans hh2).trans hh)
  have houtput := runEvents_beginCommand_output (s := s.accept) hp hlatch hrender
  refine ⟨_, (runSteps_succ (step_eq_runEvents hr hv hp hpause) 2).trans hpulse, ?_⟩
  obtain ⟨hclk, hdat, hlat⟩ := blockReset_lines
    { runEvents n (beginCommand (decode s.cmd) s.accept) with host := .driveRst false :: rest, rst := true }
  exact ⟨(blockReset_output _).trans houtput, rfl, hclk, hdat, hlat, rfl, rfl, fun i => getElem_unknown i i.isLt, rfl,
    rfl⟩

/-- Settles O37: nothing is accepted, no move lands, and an IDLE sequencer has no event to make. -/
theorem idleBlockWaitsForACommand : Obligations.IdleBlockWaitsForACommand := by
  intro s hr hp hv hh
  rw [step_of_leftAlone ⟨hr, hv, hh⟩, tick_idle s hp]

/-- Settles O39: the boundary's block-only reset, whose registers, lines and chain no move but the power cycle
touches. -/
theorem rstAbandonsTheCommandAndKeepsTheDisplay : Obligations.RstAbandonsTheCommandAndKeepsTheDisplay := by
  intro s hr hh
  obtain ⟨moves, a, b, c, d, e, f, hreset⟩ := underReset_frame hh
  obtain ⟨hclk, hdat, hlat⟩ := blockReset_lines s
  refine ⟨_, step_of_rst hr, ?_⟩
  rw [hreset]
  exact ⟨hclk, hdat, hlat, rfl, rfl, rfl, rfl, blockReset_output s, displayState_congr (blockReset_output s),
    fun i => getElem_unknown i i.isLt, blockReset_segPos s⟩

/-- Settles O42: both states have the same values by definition; unknown stages show no pattern, and IDLE has no
event. -/
theorem powerOnResetValues : Obligations.PowerOnResetValues := by
  intro s t ht
  obtain ⟨hclk, hdat, hlat, hphase, hpending, hfaults, hstorage, houtput⟩ :
      t.clk = false ∧ t.dat = false ∧ t.lat = false ∧ t.phase = .idle ∧ t.pending = 0 ∧ t.faults = [] ∧
        t.storage = ChainBits.unknown ∧ t.output = ChainBits.unknown := by
    obtain rfl | rfl := ht
    · exact ⟨rfl, rfl, rfl, rfl, rfl, rfl, rfl, rfl⟩
    · exact ⟨rfl, rfl, rfl, rfl, rfl, rfl, rfl, rfl⟩
  refine ⟨hclk, hdat, hlat, hphase, ?_, hpending, hfaults, fun i => ?_, displayState_of_unknown houtput, ?_,
    tick_idle t hphase⟩
  · simp [State.cmdReady, hphase]
  · simp [hstorage, houtput]
  · simp [nextEvent, hphase]

end
